-- ==== Sys2Proof/Word.lean ====
section
/-! DEFINITION. Sys2Proof/Word.lean: the widths of the core's words (00_scope.md R5).
A Word of the spec whose width is fixed is a bit vector of that width (40_primitives.md R111); bit positions are
numeric, bit 0 the least significant (00_scope.md R7). -/

namespace Sys2Proof

/-- A Signal, one binary value (40_primitives.md R110). -/
abbrev Signal := Bool

/-- A 16-bit Word of the data path, also a memory word and a bus address (00_scope.md R5). -/
abbrev Word := BitVec 16

/-- The 12-bit operand of an instruction (30_encoding.md R90). -/
abbrev Operand := BitVec 12

/-- The 4-bit opcode of an instruction (30_encoding.md R90). -/
abbrev Opcode := BitVec 4

/-- The 4-bit step of the control store address, the microcounter's value (10_state.md R30). -/
abbrev MicroStep := BitVec 4

/-- A 32-bit control word (43_control_unit.md R221). -/
abbrev ControlWord := BitVec 32

/-- An 8-bit control store address (43_control_unit.md R222). -/
abbrev StoreAddr := BitVec 8

/-- The 2-bit unit select of the ALU (42_alu.md R198). -/
abbrev AluOp := BitVec 2

/-- The 3-bit function code of the ALU (42_alu.md R198). -/
abbrev AluFn := BitVec 3

/-- The 5-bit ALU control, `ALUop` in the two high bits and `fn` in the three low ones (42_alu.md R201). -/
abbrev AluCtrl := BitVec 5

/-- A 4-bit shift amount (41_barrel_shifter.md R150). -/
abbrev ShiftAmount := BitVec 4

/-- An operand as a 16-bit word, zero-extended: the spec's `zext_16` (00_scope.md R9, 30_encoding.md R92). -/
abbrev zext16 (a : Operand) : Word := a.setWidth 16

end Sys2Proof
end

