-- ==== Sys2Proof/Syntax.lean ====
section
/-! DEFINITION. Sys2Proof/Syntax.lean: the instructions, one constructor per row of spec/opcode_table.json: the sixteen
instruction words of format I16 (30_encoding.md R94) and the fifteen codes of the ALU's 5-bit control, format
ALU_CTRL (42_alu.md R201). The second format is no instruction word (30_encoding.md R100): its rows run at the ALU's
own ports (log 4). -/

namespace Sys2Proof

/-- One constructor per row of the opcode table. An `operand` is the 12-bit operand of the word, kept also where the
instruction ignores it (30_encoding.md R92, R96). An `fn` is the whole 3-bit function code, for a row whose pattern
has bits that are either value (42_alu.md R201); `Instr.wellFormed` checks its fixed bits. -/
inductive Instr where
  /-- NOP, opcode 0x0 (45_instructions.md R322). -/
  | nop (operand : Operand)
  /-- LOAD, opcode 0x1 (R323). -/
  | load (operand : Operand)
  /-- STORE, opcode 0x2 (R324). -/
  | store (operand : Operand)
  /-- ADD, opcode 0x3 (R325). -/
  | add (operand : Operand)
  /-- SUB, opcode 0x4 (R326). -/
  | sub (operand : Operand)
  /-- MULT, opcode 0x5 (R327). -/
  | mult (operand : Operand)
  /-- DIV, opcode 0x6 (R328). -/
  | div (operand : Operand)
  /-- JUMP, opcode 0x7 (R329). -/
  | jump (operand : Operand)
  /-- JZ, opcode 0x8 (R330). -/
  | jz (operand : Operand)
  /-- LOADI, opcode 0x9 (R331). -/
  | loadi (operand : Operand)
  /-- AND, opcode 0xA (R332). -/
  | and (operand : Operand)
  /-- OR, opcode 0xB (R333). -/
  | or (operand : Operand)
  /-- XOR, opcode 0xC (R334). -/
  | xor (operand : Operand)
  /-- SHL, opcode 0xD (R335). -/
  | shl (operand : Operand)
  /-- SHR, opcode 0xE (R336). -/
  | shr (operand : Operand)
  /-- HALT, opcode 0xF (R337). -/
  | halt (operand : Operand)
  /-- ALU.ADD, control `00:xx0` (42_alu.md R181, R201). -/
  | aluAdd (fn : AluFn)
  /-- ALU.SUB, control `00:xx1` (R182, R201). -/
  | aluSub (fn : AluFn)
  /-- ALU.AND, control `01:x00` (R191, R201). -/
  | aluAnd (fn : AluFn)
  /-- ALU.OR, control `01:x01` (R192, R201). -/
  | aluOr (fn : AluFn)
  /-- ALU.XOR, control `01:x10` (R193, R201). -/
  | aluXor (fn : AluFn)
  /-- ALU.NOT, control `01:x11` (R194, R201). -/
  | aluNot (fn : AluFn)
  /-- ALU.SLL, control `10:000` (41_barrel_shifter.md R153). -/
  | aluSll
  /-- ALU.LSR, control `10:001` (R154). -/
  | aluLsr
  /-- ALU.ASR, control `10:010` (R155). -/
  | aluAsr
  /-- ALU.ROL, control `10:011` (R156). -/
  | aluRol
  /-- ALU.ROR, control `10:100` (R157). -/
  | aluRor
  /-- ALU.SHIFT_UNUSED_101, control `10:101` (R161). -/
  | aluShiftUnused101
  /-- ALU.SHIFT_UNUSED_110, control `10:110` (R161). -/
  | aluShiftUnused110
  /-- ALU.SHIFT_UNUSED_111, control `10:111` (R161). -/
  | aluShiftUnused111
  /-- ALU.UNIT_UNUSED, control `11:xxx` (42_alu.md R202). -/
  | aluUnitUnused (fn : AluFn)
  deriving DecidableEq, Repr

/-- The sixteen instruction kinds the decoder classifies into, in opcode order (43_control_unit.md R252). -/
inductive Kind where
  | nop | load | store | add | sub | mult | div | jump | jz | loadi | and | or | xor | shl | shr | halt
  deriving DecidableEq, Repr

end Sys2Proof
end

