-- ==== Sys2Proof/WellFormed.lean ====
section
/-! DEFINITION. Sys2Proof/WellFormed.lean: which terms of `Instr` stand for an encoding of the opcode table. Every operand
value of the sixteen instructions is legal (30_encoding.md R93, R96); an ALU control's function code must have the
fixed bits of its row (42_alu.md R201). -/

namespace Sys2Proof

/-- The function code's fixed bits are those of the row (42_alu.md R201); every operand is legal (30_encoding.md R96). -/
def Instr.wellFormed : Instr → Bool
  | .nop _ => true
  | .load _ => true
  | .store _ => true
  | .add _ => true
  | .sub _ => true
  | .mult _ => true
  | .div _ => true
  | .jump _ => true
  | .jz _ => true
  | .loadi _ => true
  | .and _ => true
  | .or _ => true
  | .xor _ => true
  | .shl _ => true
  | .shr _ => true
  | .halt _ => true
  | .aluAdd fn => fn.getLsbD 0 == false
  | .aluSub fn => fn.getLsbD 0 == true
  | .aluAnd fn => fn.setWidth 2 == 0b00#2
  | .aluOr fn => fn.setWidth 2 == 0b01#2
  | .aluXor fn => fn.setWidth 2 == 0b10#2
  | .aluNot fn => fn.setWidth 2 == 0b11#2
  | .aluSll => true
  | .aluLsr => true
  | .aluAsr => true
  | .aluRol => true
  | .aluRor => true
  | .aluShiftUnused101 => true
  | .aluShiftUnused110 => true
  | .aluShiftUnused111 => true
  | .aluUnitUnused _ => true

/-- An instruction word of format I16, as against a control of the ALU's own ports (30_encoding.md R100). -/
def Instr.isWord : Instr → Bool
  | .nop _ => true
  | .load _ => true
  | .store _ => true
  | .add _ => true
  | .sub _ => true
  | .mult _ => true
  | .div _ => true
  | .jump _ => true
  | .jz _ => true
  | .loadi _ => true
  | .and _ => true
  | .or _ => true
  | .xor _ => true
  | .shl _ => true
  | .shr _ => true
  | .halt _ => true
  | .aluAdd _ => false
  | .aluSub _ => false
  | .aluAnd _ => false
  | .aluOr _ => false
  | .aluXor _ => false
  | .aluNot _ => false
  | .aluSll => false
  | .aluLsr => false
  | .aluAsr => false
  | .aluRol => false
  | .aluRor => false
  | .aluShiftUnused101 => false
  | .aluShiftUnused110 => false
  | .aluShiftUnused111 => false
  | .aluUnitUnused _ => false

end Sys2Proof
end

