-- ==== Sys2Proof/Decode.lean ====
section
/-! DEFINITION. Sys2Proof/Decode.lean: the decoder of the instruction words (30_encoding.md R90 to R94) and of the ALU's
5-bit control (42_alu.md R201), and after it the encoder and the assembler's operand check (30_encoding.md R98). -/

namespace Sys2Proof

/-! ## Fields -/

/-- The opcode field, bits 15 to 12 (30_encoding.md R91, 43_control_unit.md R251). -/
def opcodeField (w : Word) : Opcode := w.extractLsb' 12 4

/-- The operand field, bits 11 to 0 (30_encoding.md R91, 43_control_unit.md R251). -/
def operandField (w : Word) : Operand := w.extractLsb' 0 12

/-- The unit select of a 5-bit ALU control (42_alu.md R201). -/
def aluOpField (ctrl : AluCtrl) : AluOp := ctrl.extractLsb' 3 2

/-- The function code of a 5-bit ALU control (42_alu.md R201). -/
def aluFnField (ctrl : AluCtrl) : AluFn := ctrl.extractLsb' 0 3

/-! ## Decoder -/

/-- The kind an opcode selects (30_encoding.md R94, 43_control_unit.md R252). The last case is opcode 0xF, the one
value left. -/
def kindOf (op : Opcode) : Kind :=
  match op.toNat with
  | 0 => .nop
  | 1 => .load
  | 2 => .store
  | 3 => .add
  | 4 => .sub
  | 5 => .mult
  | 6 => .div
  | 7 => .jump
  | 8 => .jz
  | 9 => .loadi
  | 10 => .and
  | 11 => .or
  | 12 => .xor
  | 13 => .shl
  | 14 => .shr
  | _ => .halt

/-- The instruction of a kind with an operand (30_encoding.md R92). -/
def instrOfKind (k : Kind) (a : Operand) : Instr :=
  match k with
  | .nop => .nop a
  | .load => .load a
  | .store => .store a
  | .add => .add a
  | .sub => .sub a
  | .mult => .mult a
  | .div => .div a
  | .jump => .jump a
  | .jz => .jz a
  | .loadi => .loadi a
  | .and => .and a
  | .or => .or a
  | .xor => .xor a
  | .shl => .shl a
  | .shr => .shr a
  | .halt => .halt a

/-- Decoding of a 16-bit instruction word: total, each word exactly one instruction (30_encoding.md R93). -/
def decodeWord (w : Word) : Instr := instrOfKind (kindOf (opcodeField w)) (operandField w)

/-- Decoding of a 5-bit ALU control by the table of 42_alu.md R201: total. -/
def decodeAluCtrl (ctrl : AluCtrl) : Instr :=
  let fn := aluFnField ctrl
  match (aluOpField ctrl).toNat with
  | 0 => if fn.getLsbD 0 then .aluSub fn else .aluAdd fn
  | 1 =>
    match (fn.setWidth 2).toNat with
    | 0 => .aluAnd fn
    | 1 => .aluOr fn
    | 2 => .aluXor fn
    | _ => .aluNot fn
  | 2 =>
    match fn.toNat with
    | 0 => .aluSll
    | 1 => .aluLsr
    | 2 => .aluAsr
    | 3 => .aluRol
    | 4 => .aluRor
    | 5 => .aluShiftUnused101
    | 6 => .aluShiftUnused110
    | _ => .aluShiftUnused111
  | _ => .aluUnitUnused fn

/-- What an encoding is: a 16-bit instruction word or a 5-bit ALU control (30_encoding.md R90, R100). -/
inductive Encoding where
  | word (w : Word)
  | aluCtrl (ctrl : AluCtrl)
  deriving DecidableEq, Repr

/-- The decoder over both formats. -/
def decode : Encoding → Instr
  | .word w => decodeWord w
  | .aluCtrl ctrl => decodeAluCtrl ctrl

/-- Why bytes stand for no encoding. No 16-bit word is among these: every word is an instruction (30_encoding.md R96). -/
inductive DecodeError where
  /-- Neither two bytes (a word) nor one byte (an ALU control): every instruction is 16 bits (30_encoding.md R97). Safe. -/
  | wrongLength (n : Nat)
  /-- One byte whose bits 7 to 5 are not all 0: an ALU control has 5 bits (42_alu.md R201). Safe. -/
  | controlTooWide (b : BitVec 8)
  deriving DecidableEq, Repr

/-- The encoding that bytes hold. Two bytes are a word, the less significant first, as the model's memory cells lie
(log 1); one byte is an ALU control in its five low bits (log 12). -/
def encodingOfBytes : List (BitVec 8) → Except DecodeError Encoding
  | [b] => if b.toNat < 32 then .ok (.aluCtrl (b.setWidth 5)) else .error (.controlTooWide b)
  | [lo, hi] => .ok (.word (hi ++ lo))
  | bs => .error (.wrongLength bs.length)

/-- The decoder on any bytes, refusing by name. -/
def decodeBytes (bs : List (BitVec 8)) : Except DecodeError Instr :=
  (encodingOfBytes bs).map decode

/-! ## Encoder -/

/-- The word `opcode * 4096 + operand` (30_encoding.md R91, R98). -/
def wordOf (op : Opcode) (a : Operand) : Word := op ++ a

/-- The 5-bit control `ALUop : fn` (42_alu.md R201). -/
def aluCtrlOf (op : AluOp) (fn : AluFn) : AluCtrl := op ++ fn

/-- The encoding of an instruction (30_encoding.md R94, 42_alu.md R201). -/
def encode : Instr → Encoding
  | .nop a => .word (wordOf 0x0 a)
  | .load a => .word (wordOf 0x1 a)
  | .store a => .word (wordOf 0x2 a)
  | .add a => .word (wordOf 0x3 a)
  | .sub a => .word (wordOf 0x4 a)
  | .mult a => .word (wordOf 0x5 a)
  | .div a => .word (wordOf 0x6 a)
  | .jump a => .word (wordOf 0x7 a)
  | .jz a => .word (wordOf 0x8 a)
  | .loadi a => .word (wordOf 0x9 a)
  | .and a => .word (wordOf 0xA a)
  | .or a => .word (wordOf 0xB a)
  | .xor a => .word (wordOf 0xC a)
  | .shl a => .word (wordOf 0xD a)
  | .shr a => .word (wordOf 0xE a)
  | .halt a => .word (wordOf 0xF a)
  | .aluAdd fn => .aluCtrl (aluCtrlOf 0b00 fn)
  | .aluSub fn => .aluCtrl (aluCtrlOf 0b00 fn)
  | .aluAnd fn => .aluCtrl (aluCtrlOf 0b01 fn)
  | .aluOr fn => .aluCtrl (aluCtrlOf 0b01 fn)
  | .aluXor fn => .aluCtrl (aluCtrlOf 0b01 fn)
  | .aluNot fn => .aluCtrl (aluCtrlOf 0b01 fn)
  | .aluSll => .aluCtrl (aluCtrlOf 0b10 0b000)
  | .aluLsr => .aluCtrl (aluCtrlOf 0b10 0b001)
  | .aluAsr => .aluCtrl (aluCtrlOf 0b10 0b010)
  | .aluRol => .aluCtrl (aluCtrlOf 0b10 0b011)
  | .aluRor => .aluCtrl (aluCtrlOf 0b10 0b100)
  | .aluShiftUnused101 => .aluCtrl (aluCtrlOf 0b10 0b101)
  | .aluShiftUnused110 => .aluCtrl (aluCtrlOf 0b10 0b110)
  | .aluShiftUnused111 => .aluCtrl (aluCtrlOf 0b10 0b111)
  | .aluUnitUnused fn => .aluCtrl (aluCtrlOf 0b11 fn)

/-- The bytes of an encoding, in the order `encodingOfBytes` reads them (log 1, log 12). -/
def bytesOfEncoding : Encoding → List (BitVec 8)
  | .word w => [w.extractLsb' 0 8, w.extractLsb' 8 8]
  | .aluCtrl ctrl => [ctrl.setWidth 8]

/-- The assembler's word for an opcode and an operand number: an operand above 4095 does not fit and is an error of the
assembler, not an instruction (30_encoding.md R98). -/
def assemble (op : Opcode) (operand : Nat) : Option Word :=
  if operand < 4096 then some (wordOf op (BitVec.ofNat 12 operand)) else none

/-! ## The opcode table -/

/-- One row of spec/opcode_table.json: its bits in whole bytes, and its mask and match. -/
structure TableRow where
  nbits : Nat
  mask : BitVec 16
  pattern : BitVec 16
  deriving DecidableEq, Repr

/-- The row of the table an instruction belongs to (spec/opcode_table.json; 30_encoding.md R94, 42_alu.md R201). -/
def tableRow : Instr → TableRow
  | .nop _ => ⟨16, 0xF000, 0x0000⟩
  | .load _ => ⟨16, 0xF000, 0x1000⟩
  | .store _ => ⟨16, 0xF000, 0x2000⟩
  | .add _ => ⟨16, 0xF000, 0x3000⟩
  | .sub _ => ⟨16, 0xF000, 0x4000⟩
  | .mult _ => ⟨16, 0xF000, 0x5000⟩
  | .div _ => ⟨16, 0xF000, 0x6000⟩
  | .jump _ => ⟨16, 0xF000, 0x7000⟩
  | .jz _ => ⟨16, 0xF000, 0x8000⟩
  | .loadi _ => ⟨16, 0xF000, 0x9000⟩
  | .and _ => ⟨16, 0xF000, 0xA000⟩
  | .or _ => ⟨16, 0xF000, 0xB000⟩
  | .xor _ => ⟨16, 0xF000, 0xC000⟩
  | .shl _ => ⟨16, 0xF000, 0xD000⟩
  | .shr _ => ⟨16, 0xF000, 0xE000⟩
  | .halt _ => ⟨16, 0xF000, 0xF000⟩
  | .aluAdd _ => ⟨8, 0x19, 0x00⟩
  | .aluSub _ => ⟨8, 0x19, 0x01⟩
  | .aluAnd _ => ⟨8, 0x1B, 0x08⟩
  | .aluOr _ => ⟨8, 0x1B, 0x09⟩
  | .aluXor _ => ⟨8, 0x1B, 0x0A⟩
  | .aluNot _ => ⟨8, 0x1B, 0x0B⟩
  | .aluSll => ⟨8, 0x1F, 0x10⟩
  | .aluLsr => ⟨8, 0x1F, 0x11⟩
  | .aluAsr => ⟨8, 0x1F, 0x12⟩
  | .aluRol => ⟨8, 0x1F, 0x13⟩
  | .aluRor => ⟨8, 0x1F, 0x14⟩
  | .aluShiftUnused101 => ⟨8, 0x1F, 0x15⟩
  | .aluShiftUnused110 => ⟨8, 0x1F, 0x16⟩
  | .aluShiftUnused111 => ⟨8, 0x1F, 0x17⟩
  | .aluUnitUnused _ => ⟨8, 0x18, 0x18⟩

/-- An encoding's bits as a number of 16 bits, for comparison with a row's mask and match. -/
def encodingBits : Encoding → BitVec 16
  | .word w => w
  | .aluCtrl ctrl => ctrl.setWidth 16

/-! ## The host's view -/

/-- The bytes of a table word: `nbits` bits of `w`, the least significant byte first. -/
def tableWordBytes (nbits w : Nat) : List (BitVec 8) :=
  (List.range (nbits / 8)).map fun k => BitVec.ofNat 8 (w / 256 ^ k)

/-- The instruction the decoder reads from the bits of a table word: a row of 16 bits is an instruction word, a row of 8
bits an ALU control (log 12). -/
def decodeTableWord (nbits w : Nat) : Option Instr := (decodeBytes (tableWordBytes nbits w)).toOption

end Sys2Proof
end

