-- ==== Sys2Proof/Machine/Primitives.lean ====
section
/-! DEFINITION. Sys2Proof/Machine/Primitives.lean: Signal, Word, gates, full adder, ripple adder, multiplexers and the
4-to-16 decoder (40_primitives.md R110 to R133). None of these blocks holds state. -/

namespace Sys2Proof.Machine

/-! ## Signal and Word at the outer interface -/

/-- The failures of the outer interface (40_primitives.md R112, R113; 60_exceptions.md R362): a refused operation, which
changes nothing. Inside the core none can occur (10_state.md R21). -/
inductive WordError where
  /-- A value outside a Word's or a Signal's range, or a width outside 1 to 64 (R110, R112). Safe: nothing is changed. -/
  | rangeError
  /-- A bit index outside the width (R113). Safe: nothing is changed. -/
  | indexError
  deriving DecidableEq, Repr

/-- A Signal set to a number: only 0 and 1 are values (40_primitives.md R110). -/
def signalSet (v : Nat) : Except WordError Signal :=
  match v with
  | 0 => .ok false
  | 1 => .ok true
  | _ => .error .rangeError

/-- A Signal toggled, `1 - v` (40_primitives.md R110). -/
def signalToggle (v : Signal) : Signal := !v

/-- Whole-value assignment: fails outside `[0, 2^width)`, never clamped (40_primitives.md R112). -/
def wordSetBinary (width v : Nat) : Except WordError (BitVec width) :=
  if v < 2 ^ width then .ok (BitVec.ofNat width v) else .error .rangeError

/-- Construction: the width is validated, then the value (40_primitives.md R111, R112). -/
def wordNew (width v : Nat) : Except WordError (BitVec width) :=
  if 1 ≤ width ∧ width ≤ 64 then wordSetBinary width v else .error .rangeError

/-- `v<i>`, the bit at Word index `i`, index 0 the most significant (00_scope.md R7, 40_primitives.md R111). -/
def wordIndexBit {width : Nat} (v : BitVec width) (i : Nat) : Signal := v.getLsbD (width - 1 - i)

/-- `get_bit(i)` (40_primitives.md R113). -/
def wordGetBit {width : Nat} (v : BitVec width) (i : Nat) : Except WordError Signal :=
  if i < width then .ok (wordIndexBit v i) else .error .indexError

/-- The word with the bit at Word index `i` replaced and every other bit kept (40_primitives.md R113). -/
def wordPutBit {width : Nat} (v : BitVec width) (i : Nat) (s : Signal) : BitVec width :=
  BitVec.ofNat width (v.toNat - (wordIndexBit v i).toNat * 2 ^ (width - 1 - i) + s.toNat * 2 ^ (width - 1 - i))

/-- `set_bit(i, s)` (40_primitives.md R113). -/
def wordSetBit {width : Nat} (v : BitVec width) (i : Nat) (s : Signal) : Except WordError (BitVec width) :=
  if i < width then .ok (wordPutBit v i s) else .error .indexError

/-- `to_decimal()` (40_primitives.md R114). -/
def wordToDecimal {width : Nat} (v : BitVec width) : Nat := v.toNat

/-- The characters of `to_binary()`, `v<0>` first (40_primitives.md R114). -/
def wordToBinaryChars {width : Nat} (v : BitVec width) : List Char :=
  (List.range width).map fun i => if wordIndexBit v i then '1' else '0'

/-- `to_binary()` (40_primitives.md R114). -/
def wordToBinary {width : Nat} (v : BitVec width) : String := String.ofList (wordToBinaryChars v)

/-- The signed reading of a 16-bit value (00_scope.md R8). -/
def signed16 (v : Word) : Int := if v.getLsbD 15 then (v.toNat : Int) - 65536 else (v.toNat : Int)

/-- The 16-bit word whose every bit is `b` (00_scope.md R8). -/
def rep16 (b : Signal) : Word := if b then 0xFFFF#16 else 0#16

/-! ## Gates -/

/-- The gate functions (40_primitives.md R116). -/
inductive GateKind where
  | not | and | or | xor
  deriving DecidableEq, Repr

/-- A gate: its function, its fan-in, and its inputs in order, `none` where nothing is connected (40_primitives.md R116,
R121). -/
structure Gate where
  kind : GateKind
  fanIn : Nat
  inputs : List (Option Signal)
  deriving DecidableEq, Repr

/-- A gate that can be built: NOT has one input, the others 2 to 8, and no input is beyond the fan-in (40_primitives.md
R116 to R120). -/
def Gate.valid (g : Gate) : Bool :=
  (match g.kind with
    | .not => g.fanIn == 1
    | .and => decide (2 ≤ g.fanIn ∧ g.fanIn ≤ 8)
    | .or => decide (2 ≤ g.fanIn ∧ g.fanIn ≤ 8)
    | .xor => decide (2 ≤ g.fanIn ∧ g.fanIn ≤ 8)) && decide (g.inputs.length ≤ g.fanIn)

/-- The values of a gate's inputs: an unconnected input reads as 0 (40_primitives.md R121). -/
def Gate.inputValues (g : Gate) : List Signal :=
  (List.range g.fanIn).map fun k => ((g.inputs.getD k none).getD false)

/-- NOT (40_primitives.md R117). -/
def gateNot (a : Signal) : Signal := !a

/-- AND of any fan-in (40_primitives.md R118). -/
def gateAnd (ins : List Signal) : Signal := ins.all id

/-- OR of any fan-in (40_primitives.md R119). -/
def gateOr (ins : List Signal) : Signal := ins.any id

/-- XOR of any fan-in: parity (40_primitives.md R120). -/
def gateXor (ins : List Signal) : Signal := (ins.foldl (fun n b => n + b.toNat) 0) % 2 == 1

/-- A gate's output, recomputed from its inputs on demand (40_primitives.md R116 to R121). -/
def Gate.evaluate (g : Gate) : Signal :=
  match g.kind with
  | .not => gateNot (g.inputValues.headD false)
  | .and => gateAnd g.inputValues
  | .or => gateOr g.inputValues
  | .xor => gateXor g.inputValues

/-- AND of two inputs (40_primitives.md R118). -/
def and2 (a b : Signal) : Signal := a && b

/-- OR of two inputs (40_primitives.md R119). -/
def or2 (a b : Signal) : Signal := a || b

/-- XOR of two inputs (40_primitives.md R120). -/
def xor2 (a b : Signal) : Signal := a ^^ b

/-! ## Lanes -/

/-- The number whose bit `i`, for `i` below the count, is `f i`. -/
def lanesNat (f : Nat → Signal) : Nat → Nat
  | 0 => 0
  | k + 1 => lanesNat f k + (if f k then 2 ^ k else 0)

/-- The 16-bit word whose lane `i` is `f i`, lanes numbered numerically (00_scope.md R7 and its glossary). -/
def wordOfLanes (f : Nat → Signal) : Word := BitVec.ofNat 16 (lanesNat f 16)

/-! ## Adders -/

/-- The full adder's two outputs, sum and carry_out (40_primitives.md R122). -/
def fullAdder (a b cin : Signal) : Signal × Signal :=
  (xor2 (xor2 a b) cin, or2 (and2 a b) (and2 (xor2 a b) cin))

/-- The carry into lane `i` of the ripple adder: `cin` at lane 0, then the carry-out of the lane below (40_primitives.md
R124). -/
def rippleCarry (a b : Word) (cin : Signal) : Nat → Signal
  | 0 => cin
  | i + 1 => (fullAdder (a.getLsbD i) (b.getLsbD i) (rippleCarry a b cin i)).2

/-- The 16-bit ripple adder: sixteen full adders from lane 0 to lane 15, the carry threaded between lanes; the sum and
the carry-out of lane 15 (40_primitives.md R124). -/
def rippleAdd16 (a b : Word) (cin : Signal) : Word × Signal :=
  (wordOfLanes fun i => (fullAdder (a.getLsbD i) (b.getLsbD i) (rippleCarry a b cin i)).1, rippleCarry a b cin 16)

/-! ## Multiplexers -/

/-- The 2:1 multiplexer (40_primitives.md R125). -/
def mux2 (in0 in1 : Signal) (sel : Signal) : Signal := if sel then in1 else in0

/-- The netlist of the 2:1 multiplexer (40_primitives.md R130). -/
def mux2Gates (in0 in1 : Signal) (sel : Signal) : Signal := or2 (and2 in0 (gateNot sel)) (and2 in1 sel)

/-- The 4:1 multiplexer (40_primitives.md R126). -/
def mux4 (in0 in1 in2 in3 : Signal) (sel : BitVec 2) : Signal :=
  match sel with
  | 0b00#2 => in0
  | 0b01#2 => in1
  | 0b10#2 => in2
  | 0b11#2 => in3

/-- The 8:1 multiplexer (40_primitives.md R127). -/
def mux8 (in0 in1 in2 in3 in4 in5 in6 in7 : Signal) (sel : BitVec 3) : Signal :=
  match sel with
  | 0b000#3 => in0
  | 0b001#3 => in1
  | 0b010#3 => in2
  | 0b011#3 => in3
  | 0b100#3 => in4
  | 0b101#3 => in5
  | 0b110#3 => in6
  | 0b111#3 => in7

/-- The 3:1 multiplexer: 0 for select value 3 (40_primitives.md R128). -/
def mux3 (in0 in1 in2 : Signal) (sel : BitVec 2) : Signal :=
  match sel with
  | 0b00#2 => in0
  | 0b01#2 => in1
  | 0b10#2 => in2
  | 0b11#2 => false

/-- The 3:1 multiplexer on every lane with one shared select (40_primitives.md R129). -/
def mux3Word (in0 in1 in2 : Word) (sel : BitVec 2) : Word :=
  wordOfLanes fun i => mux3 (in0.getLsbD i) (in1.getLsbD i) (in2.getLsbD i) sel

/-- The wider multiplexers as trees of 2:1 netlists on successive select bits, least significant first (40_primitives.md
R130). -/
def mux4Gates (in0 in1 in2 in3 : Signal) (sel : BitVec 2) : Signal :=
  mux2Gates (mux2Gates in0 in1 (sel.getLsbD 0)) (mux2Gates in2 in3 (sel.getLsbD 0)) (sel.getLsbD 1)

/-- The 8:1 tree (40_primitives.md R130). -/
def mux8Gates (in0 in1 in2 in3 in4 in5 in6 in7 : Signal) (sel : BitVec 3) : Signal :=
  mux2Gates (mux4Gates in0 in1 in2 in3 (sel.setWidth 2)) (mux4Gates in4 in5 in6 in7 (sel.setWidth 2)) (sel.getLsbD 2)

/-! ## Decoder 4-to-16 -/

/-- Output line `y_k` of the 4-to-16 decoder (40_primitives.md R131). -/
def decoderLine (x : BitVec 4) (k : Nat) : Signal := x.toNat == k

/-- The sixteen lines packed, line `k` at numeric bit `k` (40_primitives.md R132). -/
def decoder4to16 (x : BitVec 4) : Word := wordOfLanes (decoderLine x)

/-- The netlist of one line: a 4-input AND of the input bits, each through a NOT where `k` has a 0 (40_primitives.md
R133). -/
def decoderLineGates (x : BitVec 4) (k : Nat) : Signal :=
  gateAnd ((List.range 4).map fun j => if k.testBit j then x.getLsbD j else gateNot (x.getLsbD j))

end Sys2Proof.Machine
end

