-- ==== Sys2Proof/Config.lean ====
section
/-! DEFINITION. Sys2Proof/Config.lean: what is fixed for the machine (00_scope.md R5) and the default of its open
parameter `mapped` (R6). There is no free value: every value the source leaves unspecified is given by a rule
(93_implementation_defined.md U1, U2; log 8). -/

namespace Sys2Proof.Config

/-- The word a read of an unmapped address returns (00_scope.md R5, 20_memory.md R63). -/
def sentinel : Word := 0xFFFF#16

/-- The number of iterations of a multiply or a divide (00_scope.md R6, 92_eei_decisions.md D20). -/
def mdIterations : Nat := 16

/-- The last address of the default map (20_memory.md R65). -/
def defaultLast : Word := 0x0FFF#16

end Sys2Proof.Config
end

