-- ==== Sys2Proof/Machine/State.lean ====
section
/-! DEFINITION. Sys2Proof/Machine/State.lean: every piece of state the spec gives the machine (10_state.md R20 to R40), the
state after reset (R39), and the reasons a step can stop. -/

namespace Sys2Proof.Machine

/-- The multiply/divide sequencer's states (10_state.md R31, 43_control_unit.md R253). -/
inductive Fsm where
  | idle | multInit | multCycle | divInit | divCycle | error
  deriving DecidableEq, Repr

/-- Who may ask for the bus: the CPU, or another master by its id (20_memory.md R66). -/
inductive BusMaster where
  | cpu
  | other (id : Nat)
  deriving DecidableEq, Repr

/-- The bus's one piece of state, its owner (10_state.md R35, 20_memory.md R66). -/
inductive BusOwner where
  | free
  | heldBy (id : BusMaster)
  deriving DecidableEq, Repr

/-- A range of bus addresses that holds memory, both ends included (20_memory.md R65, R67; log 3). -/
structure AddrRange where
  first : Word
  last : Word
  deriving DecidableEq, Repr

/-- Main memory as byte cells in canonical form: word `a` is the cells `2a` (bits 7 to 0) and `2a + 1` (bits 15 to 8).
DESIGN CHOICE (log 1): every access moves a whole word, so no access can see which cell is which (20_memory.md R68). -/
abbrev Memory := List Host.Cell

/-- What a bench holds at the input wires of the ALU block's own ports (42_alu.md R198): the model's own field, no register
of the spec. DESIGN CHOICE (log 4). The ALU holds no state (10_state.md R36), so no output is kept here: the outputs are
the function `aluPortOut` of these wires. -/
structure AluPort where
  /-- A control code that the bench asks for and the next step takes up. -/
  request : Option AluCtrl
  /-- The wires of operand A. -/
  a : Word
  /-- The wires of operand B. -/
  b : Word
  /-- The wires of the 5-bit control `ALUop : fn` (42_alu.md R201). -/
  ctrl : AluCtrl
  deriving DecidableEq, Repr

/-- The machine's state (10_state.md R20 to R40). -/
structure State where
  /-- AC, the accumulator (10_state.md R22). -/
  ac : Word
  /-- PC (R23). -/
  pc : Word
  /-- IR, the instruction register (R25). -/
  ir : Word
  /-- MAR, the memory address register (R26). -/
  mar : Word
  /-- MDR, the memory data register (R27). -/
  mdr : Word
  /-- HI, the high half of the double-wide pair (R32). -/
  hi : Word
  /-- LO, the low half of the double-wide pair (R32). -/
  lo : Word
  /-- ERR, the error-status register, bit 0 = DIVZ (R28). -/
  err : Word
  /-- Z, the Zero flag (R24). -/
  z : Signal
  /-- N, the Negative flag (R24). -/
  n : Signal
  /-- C, the Carry flag (R24). -/
  c : Signal
  /-- RUN, the running flag (R29). -/
  run : Signal
  /-- uPC, the microcounter's value (R30). -/
  upc : MicroStep
  /-- The multiply/divide sequencer's state (R31). -/
  fsm : Fsm
  /-- MD_B, the latched multiplicand or divisor (R33). -/
  mdB : Word
  /-- MD_CNT, the iteration counter (R33). -/
  mdCnt : BitVec 4
  /-- MD_OP, false after a multiply was started and true after a divide was (R33). -/
  mdOp : Signal
  /-- The number of clocks performed since reset (R34). -/
  cycleCount : Nat
  /-- The number of instruction cycles completed since reset (R34). -/
  instrCount : Nat
  /-- The bus's owner (R35). -/
  bus : BusOwner
  /-- Main memory (R38, 20_memory.md R60). -/
  mem : Memory
  /-- The addresses that hold memory, the parameter `mapped` (20_memory.md R65; log 3). -/
  map : List AddrRange
  /-- The ALU block's own ports (42_alu.md R198; log 4). -/
  aluPort : AluPort
  deriving DecidableEq, Repr

/-- The faults of the machine: none. The core raises no exception and a step of it never stops with a fault
(60_exceptions.md R360; log 11). Nothing raises one, which is safe: no state is said to stop. -/
inductive Fault where
  deriving DecidableEq, Repr

/-- The reasons the model gives no meaning. -/
inductive Refusal where
  /-- Raised by an arm of `exec` whose instruction has no meaning yet; no arm is left. Safe: nothing follows of a refused step. -/
  | notModelled (mnemonic : String)
  /-- Raised by a memory access of the CPU that finds the bus held: what the CPU does on a denied request is in no source,
  and a configuration with a second master must be refused (20_memory.md R66; log 7). Safe: nothing follows of a
  refused step. -/
  | busDenied
  /-- Raised by the host request that connects a second bus master (20_memory.md R66, R67; log 7). Safe: as above. -/
  | secondMaster
  deriving DecidableEq, Repr

/-- What a step answers. -/
abbrev Answer := Host.Outcome State Fault Refusal

/-- The ALU's own ports with nothing asked of them and every input wire at 0 (log 4). -/
def AluPort.idle : AluPort := { request := none, a := 0, b := 0, ctrl := 0 }

/-- The machine right after reset: every value of 10_state.md R39. Memory lists nothing, since reset leaves memory as the
host loaded it (R39; log 2, log 6), and `map` is the default of 20_memory.md R65. -/
def State.reset : State :=
  { ac := 0, pc := 0, ir := 0, mar := 0, mdr := 0, hi := 0, lo := 0, err := 0
    z := false, n := false, c := false, run := true
    upc := 0, fsm := .idle, mdB := 0, mdCnt := 0, mdOp := false
    cycleCount := 0, instrCount := 0
    bus := .free, mem := [], map := [{ first := 0, last := Config.defaultLast }]
    aluPort := AluPort.idle }

end Sys2Proof.Machine
end

