-- ==== Sys2Proof/Machine/ControlUnit.lean ====
section
/-! DEFINITION. Sys2Proof/Machine/ControlUnit.lean: the control unit's blocks: control word, control store, signal
generator, microcounter, instruction decoder, and the multiply/divide sequencer (43_control_unit.md R220 to R257). -/

namespace Sys2Proof.Machine

/-! ## Signal generator -/

/-- The control lines, one per bit of a control word (43_control_unit.md R221, R225, R228). -/
structure ControlLines where
  /-- `ALUOP0`, bit 0. -/
  aluop0 : Signal
  /-- `ALUOP1`, bit 1. -/
  aluop1 : Signal
  /-- `ALUFN0`, bit 2. -/
  alufn0 : Signal
  /-- `ALUFN1`, bit 3. -/
  alufn1 : Signal
  /-- `ALUFN2`, bit 4. -/
  alufn2 : Signal
  /-- `ALU_B_IMM`, bit 5. -/
  aluBImm : Signal
  /-- `AC_LD_ALU`, bit 6. -/
  acLdAlu : Signal
  /-- `AC_LD_MDR`, bit 7. -/
  acLdMdr : Signal
  /-- `AC_LD_IMM`, bit 8. -/
  acLdImm : Signal
  /-- `FLAGS_LD`, bit 9. -/
  flagsLd : Signal
  /-- `PC_INC`, bit 10. -/
  pcInc : Signal
  /-- `PC_LD`, bit 11. -/
  pcLd : Signal
  /-- `PC_LD_Z`, bit 12. -/
  pcLdZ : Signal
  /-- `MAR_LD_PC`, bit 13. -/
  marLdPc : Signal
  /-- `MAR_LD_IR`, bit 14. -/
  marLdIr : Signal
  /-- `MDR_LD_MEM`, bit 15. -/
  mdrLdMem : Signal
  /-- `MDR_LD_AC`, bit 16. -/
  mdrLdAc : Signal
  /-- `IR_LD`, bit 17. -/
  irLd : Signal
  /-- `MEM_RD`, bit 18. -/
  memRd : Signal
  /-- `MEM_WR`, bit 19. -/
  memWr : Signal
  /-- `IO_RD`, bit 20. -/
  ioRd : Signal
  /-- `IO_WR`, bit 21. -/
  ioWr : Signal
  /-- `MD_START_MUL`, bit 22. -/
  mdStartMul : Signal
  /-- `MD_START_DIV`, bit 23. -/
  mdStartDiv : Signal
  /-- `MD_WAIT`, bit 24. -/
  mdWait : Signal
  /-- `MD_FLAGS_LD`, bit 25. -/
  mdFlagsLd : Signal
  /-- `MD_RESET`, bit 26. -/
  mdReset : Signal
  /-- `RSV27`, bit 27. -/
  rsv27 : Signal
  /-- `RSV28`, bit 28. -/
  rsv28 : Signal
  /-- `RSV29`, bit 29. -/
  rsv29 : Signal
  /-- `END_INSTR`, bit 30. -/
  endInstr : Signal
  /-- `HALT`, bit 31. -/
  halt : Signal
  deriving DecidableEq, Repr

/-- The signal generator: line `NAME` is bit `n` of the control word (43_control_unit.md R225, R228). -/
def signalGenerator (cw : ControlWord) : ControlLines :=
  { aluop0 := cw.getLsbD 0, aluop1 := cw.getLsbD 1, alufn0 := cw.getLsbD 2, alufn1 := cw.getLsbD 3
    alufn2 := cw.getLsbD 4, aluBImm := cw.getLsbD 5, acLdAlu := cw.getLsbD 6, acLdMdr := cw.getLsbD 7
    acLdImm := cw.getLsbD 8, flagsLd := cw.getLsbD 9, pcInc := cw.getLsbD 10, pcLd := cw.getLsbD 11
    pcLdZ := cw.getLsbD 12, marLdPc := cw.getLsbD 13, marLdIr := cw.getLsbD 14, mdrLdMem := cw.getLsbD 15
    mdrLdAc := cw.getLsbD 16, irLd := cw.getLsbD 17, memRd := cw.getLsbD 18, memWr := cw.getLsbD 19
    ioRd := cw.getLsbD 20, ioWr := cw.getLsbD 21, mdStartMul := cw.getLsbD 22, mdStartDiv := cw.getLsbD 23
    mdWait := cw.getLsbD 24, mdFlagsLd := cw.getLsbD 25, mdReset := cw.getLsbD 26, rsv27 := cw.getLsbD 27
    rsv28 := cw.getLsbD 28, rsv29 := cw.getLsbD 29, endInstr := cw.getLsbD 30, halt := cw.getLsbD 31 }

/-- `ALUop`, bits 1 and 0 of the control word (43_control_unit.md R226). -/
def aluOpOf (cw : ControlWord) : AluOp := cw.extractLsb' 0 2

/-- `ALUfunction`, bits 4 to 2 of the control word (43_control_unit.md R226). -/
def aluFnOf (cw : ControlWord) : AluFn := cw.extractLsb' 2 3

/-! ## Control store -/

/-- The control store address `(opcode << 4) | step` (43_control_unit.md R222). -/
def storeAddr (op : Opcode) (step : MicroStep) : StoreAddr := op ++ step

/-- The fetch words, steps 0 to 2 of every row: `MAR_LD_PC`; `MEM_RD`, `MDR_LD_MEM`, `PC_INC`; `IR_LD`
(43_control_unit.md R230). -/
def fetchWords : List ControlWord := [0x00002000, 0x00048400, 0x00020000]

/-- The execute microprogram of each kind, from step 3 on, ending with the word that has `END_INSTR`
(43_control_unit.md R232 to R248). -/
def executeWords : Kind → List ControlWord
  | .nop => [0x40000000]
  | .load => [0x00004000, 0x00048000, 0x40000080]
  | .store => [0x00014000, 0x40080000]
  | .add => [0x00004000, 0x00048000, 0x40000240]
  | .sub => [0x00004000, 0x00048000, 0x40000244]
  | .mult => [0x00004000, 0x00048000, 0x00400000, 0x01000000, 0x46000000]
  | .div => [0x00004000, 0x00048000, 0x00800000, 0x01000000, 0x46000000]
  | .jump => [0x40000800]
  | .jz => [0x40001000]
  | .loadi => [0x40000100]
  | .and => [0x00004000, 0x00048000, 0x40000241]
  | .or => [0x00004000, 0x00048000, 0x40000245]
  | .xor => [0x00004000, 0x00048000, 0x40000249]
  | .shl => [0x40000262]
  | .shr => [0x40000266]
  | .halt => [0xC0000000]

/-- The control store, constant for the life of the machine: the fetch words at steps 0 to 2, the row's microprogram from
step 3, zero words after it (43_control_unit.md R222 to R224, R248). -/
def controlStore (addr : StoreAddr) : ControlWord :=
  (fetchWords ++ executeWords (kindOf (addr.extractLsb' 4 4))).getD (addr.extractLsb' 0 4).toNat 0

/-! ## Microcounter -/

/-- The microcounter's next value: reset over load over increment, 15 wrapping to 0 (43_control_unit.md R249). -/
def microCounterNext (value : MicroStep) (reset load : Signal) (loadValue : MicroStep) (inc : Signal) : MicroStep :=
  if reset then 0 else if load then loadValue else if inc then value + 1 else value

/-! ## Instruction decoder -/

/-- The sixteen instruction-kind lines: the 4-to-16 decoder fed with the opcode (43_control_unit.md R251, R252). -/
def kindLines (ir : Word) : Word := decoder4to16 (opcodeField ir)

/-! ## Multiply/divide sequencer -/

/-- The sequencer's outputs, functions of its state alone (43_control_unit.md R255). -/
structure FsmOutputs where
  mdStart : Signal
  mdShift : Signal
  busy : Signal
  mdError : Signal
  deriving DecidableEq, Repr

/-- The output table of 43_control_unit.md R255. -/
def fsmOutputs : Fsm → FsmOutputs
  | .idle => { mdStart := false, mdShift := false, busy := false, mdError := false }
  | .multInit => { mdStart := true, mdShift := false, busy := true, mdError := false }
  | .multCycle => { mdStart := false, mdShift := true, busy := true, mdError := false }
  | .divInit => { mdStart := true, mdShift := false, busy := true, mdError := false }
  | .divCycle => { mdStart := false, mdShift := true, busy := true, mdError := false }
  | .error => { mdStart := false, mdShift := false, busy := false, mdError := true }

/-- The sequencer's transition, `update_state` (43_control_unit.md R254, R256). -/
def fsmNext (state : Fsm) (reset startMul startDiv divZero done : Signal) : Fsm :=
  if reset then .idle
  else
    match state with
    | .idle => if startMul then .multInit else if startDiv then (if divZero then .error else .divInit) else .idle
    | .multInit => .multCycle
    | .multCycle => if done then .idle else .multCycle
    | .divInit => .divCycle
    | .divCycle => if done then .idle else .divCycle
    | .error => .error

end Sys2Proof.Machine
end

