-- ==== Sys2Proof/Machine/MdUnit.lean ====
section
/-! DEFINITION. Sys2Proof/Machine/MdUnit.lean: the multiply/divide datapath the sequencer drives: a 16-step shift-add
multiplier and a 16-step restoring divider sharing HI:LO, both unsigned (43_control_unit.md R262 to R267). -/

namespace Sys2Proof.Machine

/-- The five registers of the MD unit (43_control_unit.md R262). -/
structure MdRegs where
  hi : Word
  lo : Word
  b : Word
  cnt : BitVec 4
  op : Signal
  deriving DecidableEq, Repr

/-- The MD unit's registers in the machine's state. -/
def mdRegs (s : State) : MdRegs := { hi := s.hi, lo := s.lo, b := s.mdB, cnt := s.mdCnt, op := s.mdOp }

/-- Initialisation from AC and MDR; `isDiv` says that the sequencer is in DIV_INIT (43_control_unit.md R263). -/
def mdInit (ac mdr : Word) (isDiv : Signal) : MdRegs := { hi := 0, lo := ac, b := mdr, cnt := 0, op := isDiv }

/-- One multiply iteration: a 17-bit sum, and the 33-bit value shifted right by one place (43_control_unit.md R264). -/
def multIteration (r : MdRegs) : MdRegs :=
  let sum17 : BitVec 17 := r.hi.setWidth 17 + (if r.lo.getLsbD 0 then r.b.setWidth 17 else 0)
  let v33 : BitVec 33 := sum17 ++ r.lo
  { r with hi := v33.extractLsb' 17 16, lo := v33.extractLsb' 1 16, cnt := r.cnt + 1 }

/-- One divide iteration: the dividend's next bit shifted in, and the divisor subtracted when it fits
(43_control_unit.md R265). -/
def divIteration (r : MdRegs) : MdRegs :=
  let t17 : BitVec 17 := r.hi ++ r.lo.extractLsb' 15 1
  let q : Signal := decide (r.b.toNat ≤ t17.toNat)
  { r with
    hi := if q then (t17 - r.b.setWidth 17).setWidth 16 else t17.setWidth 16
    lo := (r.lo <<< 1) ||| (if q then 1 else 0)
    cnt := r.cnt + 1 }

/-- `n` iterations of the unit. -/
def iterateMd (f : MdRegs → MdRegs) : Nat → MdRegs → MdRegs
  | 0, r => r
  | n + 1, r => iterateMd f n (f r)

/-- What one clock does to the unit: it acts only in the sequencer's INIT and CYCLE states (43_control_unit.md R262). -/
def mdNext (fsm : Fsm) (ac mdr : Word) (r : MdRegs) : MdRegs :=
  match fsm with
  | .idle => r
  | .multInit => mdInit ac mdr false
  | .multCycle => multIteration r
  | .divInit => mdInit ac mdr true
  | .divCycle => divIteration r
  | .error => r

end Sys2Proof.Machine
end

