-- ==== Sys2Proof/Machine/BarrelShifter.lean ====
section
/-! DEFINITION. Sys2Proof/Machine/BarrelShifter.lean: the five shift engines, each a cascade of four multiplexer stages,
and the mode select (41_barrel_shifter.md R150 to R163). The machine runs the staged form; the closed forms stand
beside it (R160). -/

namespace Sys2Proof.Machine

/-! ## Stages -/

/-- The distance of stage `k`: 1, 2, 4, 8 (41_barrel_shifter.md R151). -/
def stageDistance (k : Nat) : Nat := 2 ^ k

/-- `s_k`, the distance moved once stages 0 to `k` have acted (41_barrel_shifter.md R152). -/
def stageTotal (amt : ShiftAmount) : Nat → Nat
  | 0 => if amt.getLsbD 0 then 1 else 0
  | k + 1 => stageTotal amt k + (if amt.getLsbD (k + 1) then stageDistance (k + 1) else 0)

/-- One stage: on every lane a 2:1 multiplexer between the word so far and its shift by the stage's distance
(41_barrel_shifter.md R151). -/
def shiftStage (amt : ShiftAmount) (k : Nat) (t : Word) (shifted : Nat → Signal) : Word :=
  wordOfLanes fun i => mux2 (t.getLsbD i) (shifted i) (amt.getLsbD k)

/-- The shift of SLL's stage `k`: vacated low lanes are filled with 0 (41_barrel_shifter.md R153). -/
def sllLane (k : Nat) (t : Word) (i : Nat) : Signal :=
  if stageDistance k ≤ i then t.getLsbD (i - stageDistance k) else false

/-- The shift of LSR's stage `k`: vacated high lanes are filled with 0 (41_barrel_shifter.md R154). -/
def lsrLane (k : Nat) (t : Word) (i : Nat) : Signal :=
  if i + stageDistance k ≤ 15 then t.getLsbD (i + stageDistance k) else false

/-- The shift of ASR's stage `k`: vacated high lanes are filled with the sign of the original input
(41_barrel_shifter.md R155). -/
def asrLane (sign : Signal) (k : Nat) (t : Word) (i : Nat) : Signal :=
  if i + stageDistance k ≤ 15 then t.getLsbD (i + stageDistance k) else sign

/-- The shift of ROL's stage `k`: vacated low lanes receive original bit `(i - s_k) mod 16` (41_barrel_shifter.md R156). -/
def rolLane (x : Word) (amt : ShiftAmount) (k : Nat) (t : Word) (i : Nat) : Signal :=
  if stageDistance k ≤ i then t.getLsbD (i - stageDistance k) else x.getLsbD ((i + 16 - stageTotal amt k) % 16)

/-- The shift of ROR's stage `k`: vacated high lanes receive original bit `(i + s_k) mod 16` (41_barrel_shifter.md R157). -/
def rorLane (x : Word) (amt : ShiftAmount) (k : Nat) (t : Word) (i : Nat) : Signal :=
  if i + stageDistance k ≤ 15 then t.getLsbD (i + stageDistance k) else x.getLsbD ((i + stageTotal amt k) % 16)

/-- The word after the first `m` stages, stage 0 first (41_barrel_shifter.md R151): `t_m` of the spec. -/
def cascade (amt : ShiftAmount) (lane : Nat → Word → Nat → Signal) (x : Word) : Nat → Word
  | 0 => x
  | k + 1 => shiftStage amt k (cascade amt lane x k) (lane k (cascade amt lane x k))

/-! ## The five engines -/

/-- SLL, shift left logical (41_barrel_shifter.md R153). -/
def sll (x : Word) (amt : ShiftAmount) : Word := cascade amt sllLane x 4

/-- LSR, shift right logical (41_barrel_shifter.md R154). -/
def lsr (x : Word) (amt : ShiftAmount) : Word := cascade amt lsrLane x 4

/-- ASR, shift right arithmetic, the sign captured once (41_barrel_shifter.md R155). -/
def asr (x : Word) (amt : ShiftAmount) : Word := cascade amt (asrLane (x.getLsbD 15)) x 4

/-- ROL, rotate left (41_barrel_shifter.md R156). -/
def rol (x : Word) (amt : ShiftAmount) : Word := cascade amt (rolLane x amt) x 4

/-- ROR, rotate right (41_barrel_shifter.md R157). -/
def ror (x : Word) (amt : ShiftAmount) : Word := cascade amt (rorLane x amt) x 4

/-! ## Closed forms -/

/-- `(x * 2^n) mod 2^16` (41_barrel_shifter.md R153). -/
def sllClosed (x : Word) (amt : ShiftAmount) : Word := BitVec.ofNat 16 (x.toNat * 2 ^ amt.toNat)

/-- `x div 2^n` (41_barrel_shifter.md R154). -/
def lsrClosed (x : Word) (amt : ShiftAmount) : Word := BitVec.ofNat 16 (x.toNat / 2 ^ amt.toNat)

/-- `floor(signed16(x) / 2^n) mod 2^16` (41_barrel_shifter.md R155). -/
def asrClosed (x : Word) (amt : ShiftAmount) : Word := BitVec.ofInt 16 (signed16 x / 2 ^ amt.toNat)

/-- Bit `i` is `x[(i - n) mod 16]` (41_barrel_shifter.md R156). -/
def rolClosed (x : Word) (amt : ShiftAmount) : Word := wordOfLanes fun i => x.getLsbD ((i + 16 - amt.toNat) % 16)

/-- Bit `i` is `x[(i + n) mod 16]` (41_barrel_shifter.md R157). -/
def rorClosed (x : Word) (amt : ShiftAmount) : Word := wordOfLanes fun i => x.getLsbD ((i + amt.toNat) % 16)

/-! ## Mode select -/

/-- The shift unit: the five engines all evaluated and one picked on every lane by the 8:1 multiplexer, the three unused
codes wired to zero (41_barrel_shifter.md R161, R162). It has no flag and no carry (R163). -/
def shiftUnit (x : Word) (amt : ShiftAmount) (mode : AluFn) : Word :=
  wordOfLanes fun i =>
    mux8 ((sll x amt).getLsbD i) ((lsr x amt).getLsbD i) ((asr x amt).getLsbD i) ((rol x amt).getLsbD i)
      ((ror x amt).getLsbD i) false false false mode

end Sys2Proof.Machine
end

