-- ==== Sys2Proof/Machine/Flags.lean ====
section
/-! DEFINITION. Sys2Proof/Machine/Flags.lean: every flag computation of the spec: Zero and Negative of a selected result,
Carry of the arithmetic unit (42_alu.md R203 to R206), and the flags of a product and of a quotient
(43_control_unit.md R266). -/

namespace Sys2Proof.Machine

/-- Zero: all 16 bits of the result are 0 (42_alu.md R203). -/
def zeroFlag (result : Word) : Signal := result == 0#16

/-- Negative: the most significant bit of the result (42_alu.md R204). -/
def negativeFlag (result : Word) : Signal := result.getLsbD 15

/-- `mdz`: Zero of the 32-bit product after a multiply, of the quotient after a divide (43_control_unit.md R266). -/
def mdZero (mdOp : Signal) (hi lo : Word) : Signal :=
  if mdOp then lo == 0#16 else hi ++ lo == 0#32

/-- `mdn`: the most significant bit of the product, or of the quotient (43_control_unit.md R266). -/
def mdNegative (mdOp : Signal) (hi lo : Word) : Signal :=
  if mdOp then lo.getLsbD 15 else hi.getLsbD 15

end Sys2Proof.Machine
end

