-- ==== Sys2Proof/Machine/Alu.lean ====
section
/-! DEFINITION. Sys2Proof/Machine/Alu.lean: the arithmetic unit, the logical unit, the shift block's attachment and the
three-way ALU with its flags (42_alu.md R180 to R209). Everything here is combinational. -/

namespace Sys2Proof.Machine

/-- The arithmetic unit: operand B inverted lane by lane under `sub`, and the ripple adder with `sub` as its carry-in
(42_alu.md R180 to R183). -/
def arithUnit (a b : Word) (sub : Signal) : Word × Signal :=
  rippleAdd16 a (wordOfLanes fun i => xor2 (b.getLsbD i) sub) sub

/-- The logical unit: AND, OR, XOR and NOT of A in parallel, one picked on every lane (42_alu.md R190 to R195). -/
def logicUnit (a b : Word) (lmode : BitVec 2) : Word :=
  wordOfLanes fun i =>
    mux4 (and2 (a.getLsbD i) (b.getLsbD i)) (or2 (a.getLsbD i) (b.getLsbD i)) (xor2 (a.getLsbD i) (b.getLsbD i))
      (gateNot (a.getLsbD i)) lmode

/-- The ALU's outputs (42_alu.md R198). -/
structure AluOut where
  result : Word
  z : Signal
  n : Signal
  c : Signal
  deriving DecidableEq, Repr

/-- The ALU: all three units always evaluated, the result picked by `ALUop`, Zero and Negative of the picked result, and
Carry always the arithmetic unit's carry-out (42_alu.md R199, R200, R203 to R205). -/
def alu (a b : Word) (op : AluOp) (fn : AluFn) : AluOut :=
  let arith := arithUnit a b (fn.getLsbD 0)
  let logic := logicUnit a b (fn.setWidth 2)
  let shift := shiftUnit a (b.setWidth 4) fn
  let result := mux3Word arith.1 logic shift op
  { result := result, z := zeroFlag result, n := negativeFlag result, c := arith.2 }

end Sys2Proof.Machine
end

