-- ==== Sys2Proof/Machine/Operands.lean ====
section
/-! DEFINITION. Sys2Proof/Machine/Operands.lean: every reading of the 12-bit operand (30_encoding.md R92, 45_instructions.md
R340): direct word address, absolute jump target, immediate, and shift operand. None is sign-extended or scaled. -/

namespace Sys2Proof.Machine

/-- The direct word address of LOAD, STORE, ADD, SUB, MULT, DIV, AND, OR, XOR (45_instructions.md R340). -/
def effectiveAddr (a : Operand) : Word := zext16 a

/-- The absolute target of JUMP and JZ (45_instructions.md R338). -/
def jumpTarget (a : Operand) : Word := zext16 a

/-- The immediate of LOADI (45_instructions.md R331). -/
def immediate (a : Operand) : Word := zext16 a

/-- The operand of SHL and SHR as presented at ALU port B; the shifter takes its low four bits (30_encoding.md R92). -/
def shiftOperand (a : Operand) : Word := zext16 a

/-- The shift amount of SHL and SHR, `operand[3:0]` (30_encoding.md R92). -/
def shiftAmount (a : Operand) : ShiftAmount := a.setWidth 4

end Sys2Proof.Machine
end

