-- ==== Sys2Proof/Machine/Ops.lean ====
section
/-! DEFINITION. Sys2Proof/Machine/Ops.lean: the named operations over memory, bus and registers that the instructions
share. The core takes no exception and returns from none (60_exceptions.md R360, R369), so there is no such operation;
what it has instead is the divide-by-zero record, `recordDivZero` (R366). -/

namespace Sys2Proof.Machine

/-! ## Memory cells -/

/-- What an unlisted cell reads as: 0, so that an unlisted mapped word is 0x0000, the convention of 95_test_vectors.md.
DESIGN CHOICE (log 2): the contents `mem0` are a parameter (20_memory.md R62). -/
def unlistedByte : BitVec 8 := 0

/-- One byte of memory. -/
def readByte : Memory → Nat → BitVec 8
  | [], _ => unlistedByte
  | (k', v') :: rest, k => if k = k' then v' else readByte rest k

/-- The cell `(k, v)` in front of a list, unless `v` is what an unlisted cell reads as. -/
def consCell (k : Nat) (v : BitVec 8) (rest : Memory) : Memory :=
  if v = unlistedByte then rest else (k, v) :: rest

/-- Memory with one byte replaced, in canonical form. -/
def writeByte : Memory → Nat → BitVec 8 → Memory
  | [], k, v => consCell k v []
  | (k', v') :: rest, k, v =>
    if k < k' then consCell k v ((k', v') :: rest)
    else if k = k' then consCell k v rest
    else (k', v') :: writeByte rest k v

/-- The cell of a word's bits 7 to 0 (log 1). -/
def lowCell (a : Word) : Nat := 2 * a.toNat

/-- The cell of a word's bits 15 to 8 (log 1). -/
def highCell (a : Word) : Nat := 2 * a.toNat + 1

/-- The number of byte cells: two for each of the 65536 word addresses (20_memory.md R60). -/
def cellCount : Nat := 131072

/-- The canonical form: cells strictly rising and within the address space, none equal to what an unlisted cell reads
as. -/
def memoryWf : Memory → Bool
  | [] => true
  | [(k, v)] => decide (k < cellCount) && v != unlistedByte
  | (k, v) :: (k', v') :: rest =>
    decide (k < k') && decide (k < cellCount) && v != unlistedByte && memoryWf ((k', v') :: rest)

/-- The word that memory holds at an address, mapped or not. -/
def readCells (mem : Memory) (a : Word) : Word := readByte mem (highCell a) ++ readByte mem (lowCell a)

/-- Memory with the word at an address replaced. -/
def writeCells (mem : Memory) (a v : Word) : Memory :=
  writeByte (writeByte mem (lowCell a) (v.extractLsb' 0 8)) (highCell a) (v.extractLsb' 8 8)

/-! ## The read and write contract -/

/-- An address lies in a range, both ends included (log 3). -/
def inRange (r : AddrRange) (a : Word) : Bool := decide (r.first.toNat ≤ a.toNat ∧ a.toNat ≤ r.last.toNat)

/-- Which addresses hold memory (20_memory.md R65). -/
def mapped (map : List AddrRange) (a : Word) : Bool := map.any fun r => inRange r a

/-- `MemRead(addr, 1)`: the word at a mapped address, the sentinel at any other (20_memory.md R63). -/
def memRead (map : List AddrRange) (mem : Memory) (a : Word) : Word :=
  if mapped map a then readCells mem a else Config.sentinel

/-- `MemWrite(addr, 1, v)`: a write to an unmapped address is discarded (20_memory.md R64). -/
def memWrite (map : List AddrRange) (mem : Memory) (a v : Word) : Memory :=
  if mapped map a then writeCells mem a v else mem

/-! ## The bus -/

/-- `acquire(id)`: granted when the bus is free, else denied with no state change and nothing queued (20_memory.md R66).
The answer is the owner afterwards and whether the request was granted. -/
def busAcquire (id : BusMaster) (owner : BusOwner) : BusOwner × Bool :=
  match owner with
  | .free => (.heldBy id, true)
  | .heldBy m => (.heldBy m, false)

/-- `release(id)`: frees the bus if that master holds it (20_memory.md R66). -/
def busRelease (id : BusMaster) (owner : BusOwner) : BusOwner :=
  if owner = .heldBy id then .free else owner

/-- A read by the CPU: acquire, `MemRead`, release, and then `k` with the word read; refused when the request is denied
(20_memory.md R66; log 7). -/
def busRead (s : State) (a : Word) (k : Word → State → Answer) : Answer :=
  match busAcquire .cpu s.bus with
  | (owner, true) => k (memRead s.map s.mem a) { s with bus := busRelease .cpu owner }
  | (_, false) => .refused .busDenied

/-- A write by the CPU: acquire, `MemWrite`, release, and then `k`; refused when the request is denied (20_memory.md R66;
log 7). -/
def busWrite (s : State) (a v : Word) (k : State → Answer) : Answer :=
  match busAcquire .cpu s.bus with
  | (owner, true) => k { s with mem := memWrite s.map s.mem a v, bus := busRelease .cpu owner }
  | (_, false) => .refused .busDenied

/-! ## The instruction cycle's shared parts -/

/-- The number of fetch clocks (44_cpu_cycle.md R293). -/
def fetchClocks : Nat := 3

/-- The state after FETCH of the word `w`: MAR, MDR, IR and PC as 45_instructions.md R321 says, uPC at 3 and three clocks
counted (44_cpu_cycle.md R293). -/
def afterFetch (w : Word) (s : State) : State :=
  { s with mar := s.pc, mdr := w, ir := w, pc := s.pc + 1, upc := 3, cycleCount := s.cycleCount + fetchClocks }

/-- FETCH: one read at PC, then `k` with the instruction word (45_instructions.md R321, 20_memory.md R78). -/
def fetch (s : State) (k : Word → State → Answer) : Answer :=
  busRead s s.pc fun w t => k w (afterFetch w t)

/-- The end of an instruction cycle whose execute part took `n` clocks: uPC back to 0 and both counters advanced
(43_control_unit.md R229, 45_instructions.md R321). -/
def endInstr (n : Nat) (s : State) : State :=
  { s with upc := 0, cycleCount := s.cycleCount + n, instrCount := s.instrCount + 1 }

/-- MAR and MDR after a memory operand was read (45_instructions.md R323). -/
def setOperand (a : Word) (m : Word) (s : State) : State := { s with mar := a, mdr := m }

/-- The memory operand of LOAD, ADD, SUB, MULT, DIV, AND, OR, XOR: `MAR <- a; MDR <- MemRead(a, 1)`, then `k` with the word
(45_instructions.md R323, R325). -/
def withMemOperand (a : Operand) (s : State) (k : Word → State → Answer) : Answer :=
  busRead s (effectiveAddr a) fun m t => k m (setOperand (effectiveAddr a) m t)

/-- `(AC, Z, N, C) <- ` the ALU's outputs (43_control_unit.md R229: `AC_LD_ALU`, `FLAGS_LD`). -/
def loadAlu (r : AluOut) (s : State) : State := { s with ac := r.result, z := r.z, n := r.n, c := r.c }

/-- `(AC, Z, N, C) <- ALU(AC, b, op, fn)`, ending an instruction cycle whose execute part took `n` clocks
(42_alu.md R200). -/
def aluInstr (op : AluOp) (fn : AluFn) (b : Word) (n : Nat) (s : State) : State :=
  endInstr n (loadAlu (alu s.ac b op fn) s)

/-- An ALU instruction on a memory operand (45_instructions.md R325, R326, R332 to R334): six clocks in all. -/
def execAluMemory (op : AluOp) (fn : AluFn) (a : Operand) (s : State) : Answer :=
  withMemOperand a s fun m t => .next (aluInstr op fn m 3 t)

/-- The divide-by-zero record: `ERR <- ERR | 0x0001`, sticky, no trap (60_exceptions.md R366, R367). -/
def recordDivZero (s : State) : State := { s with err := s.err ||| 0x0001#16 }

/-- A control code presented at the ALU's own ports: its wires change and nothing else does (42_alu.md R198, R201,
45_instructions.md R339; log 4). -/
def presentAluCtrl (op : AluOp) (fn : AluFn) (s : State) : State :=
  { s with aluPort := { s.aluPort with ctrl := aluCtrlOf op fn } }

/-- The outputs at the ALU's own ports: the ALU evaluated on what the wires carry now, and held nowhere (42_alu.md R198 to
R205, 10_state.md R36). -/
def aluPortOut (s : State) : AluOut :=
  alu s.aluPort.a s.aluPort.b (aluOpField s.aluPort.ctrl) (aluFnField s.aluPort.ctrl)

/-- The pending request at the ALU's ports taken up (log 4). -/
def clearAluRequest (s : State) : State := { s with aluPort := { s.aluPort with request := none } }

/-- Between instruction cycles: uPC is 0 and the sequencer is IDLE (44_cpu_cycle.md R296, R298). -/
def betweenInstructions (s : State) : Bool := s.upc == 0 && s.fsm == .idle

/-- The CPU phases; DECODE takes no clock of its own (10_state.md R37, 44_cpu_cycle.md R293 to R295). -/
inductive Phase where
  | fetch | execute | halt
  deriving DecidableEq, Repr

/-- The phase, read off the state (10_state.md R37). -/
def phase (s : State) : Phase :=
  if s.run then (if s.upc.toNat < 3 then .fetch else .execute) else .halt

end Sys2Proof.Machine
end

