-- ==== Sys2Proof/Machine/Clock.lean ====
section
/-! DEFINITION. Sys2Proof/Machine/Clock.lean: one clock of the CPU, and the clocks up to the end of an instruction cycle
(44_cpu_cycle.md R292, R296). -/

namespace Sys2Proof.Machine

/-- The control word of the clock: the store's word at the opcode in IR and the microcounter's step (44_cpu_cycle.md
R292, 43_control_unit.md R231). -/
def controlWord (s : State) : ControlWord := controlStore (storeAddr (opcodeField s.ir) s.upc)

/-- The control lines of the clock (44_cpu_cycle.md R292). -/
def controlLines (s : State) : ControlLines := signalGenerator (controlWord s)

/-- The ALU's outputs during the clock: A is AC, B is the immediate or MDR (44_cpu_cycle.md R292). -/
def clockAlu (s : State) : AluOut :=
  alu s.ac (if (controlLines s).aluBImm then zext16 (operandField s.ir) else s.mdr)
    (aluOpOf (controlWord s)) (aluFnOf (controlWord s))

/-- The clock edge: every register load, the multiply/divide unit, the sequencer, the microcounter and the counters, all
from values before the edge; `rdata` is the word read from memory in this clock (44_cpu_cycle.md R292). Where several
lines name one register the first listed wins. -/
def clockEdge (rdata : Word) (s : State) : State :=
  let L := controlLines s
  let imm := zext16 (operandField s.ir)
  let out := clockAlu s
  let f := fsmOutputs s.fsm
  let md := mdNext s.fsm s.ac s.mdr (mdRegs s)
  let mdFlags := L.mdFlagsLd && !f.mdError
  { s with
    mar := if L.marLdPc then s.pc else if L.marLdIr then imm else s.mar
    mdr := if L.mdrLdMem then rdata else if L.mdrLdAc then s.ac else s.mdr
    ir := if L.irLd then s.mdr else s.ir
    pc := if L.pcLd then imm else if L.pcLdZ && s.z then imm else if L.pcInc then s.pc + 1 else s.pc
    ac := if L.acLdAlu then out.result else if L.acLdMdr then s.mdr else if L.acLdImm then imm else s.ac
    z := if L.flagsLd then out.z else if mdFlags then mdZero s.mdOp s.hi s.lo else s.z
    n := if L.flagsLd then out.n else if mdFlags then mdNegative s.mdOp s.hi s.lo else s.n
    c := if L.flagsLd then out.c else s.c
    hi := md.hi
    lo := md.lo
    mdB := md.b
    mdCnt := md.cnt
    mdOp := md.op
    err := if f.mdError then s.err ||| 0x0001#16 else s.err
    fsm := fsmNext s.fsm L.mdReset L.mdStartMul L.mdStartDiv (s.mdr == 0) (s.mdCnt == 15)
    upc := microCounterNext s.upc L.endInstr false 0 (!(L.mdWait && f.busy))
    run := s.run && !L.halt
    cycleCount := s.cycleCount + 1
    instrCount := if L.endInstr then s.instrCount + 1 else s.instrCount }

/-- The clock's write, if its control word asks for one, before its read (44_cpu_cycle.md R292). -/
def clockWrite (s : State) (k : State → Answer) : Answer :=
  if (controlLines s).memWr then busWrite s s.mar s.mdr k else k s

/-- The clock's read, if its control word asks for one; `MDR_LD_MEM` is asserted only with it, so without a read the word
handed on is MDR's own (44_cpu_cycle.md R292). -/
def clockRead (s : State) (k : Word → State → Answer) : Answer :=
  if (controlLines s).memRd then busRead s s.mar k else k s.mdr s

/-- `clock()`: no state change when halted (44_cpu_cycle.md R292, R299). -/
def clock (s : State) : Answer :=
  if s.run then clockWrite s fun t => clockRead t fun rdata u => .next (clockEdge rdata u) else .next s

/-- The clock about to be performed has `END_INSTR` (44_cpu_cycle.md R296). -/
def endsInstr (s : State) : Bool := (controlLines s).endInstr

/-- Clocks up to and including the one with `END_INSTR`, at most `fuel` of them (44_cpu_cycle.md R296). -/
def clocksToEnd : Nat → State → Answer
  | 0, s => .next s
  | fuel + 1, s =>
    match clock s with
    | .next t => if endsInstr s then .next t else clocksToEnd fuel t
    | .fault f => .fault f
    | .refused r => .refused r

/-- `n` clocks. -/
def clocks : Nat → State → Answer
  | 0, s => .next s
  | n + 1, s =>
    match clock s with
    | .next t => clocks n t
    | .fault f => .fault f
    | .refused r => .refused r

/-- A number of clocks within which every instruction cycle ends, from any running state (44_cpu_cycle.md R296, R297;
log 5). -/
def cycleBound : Nat := 64

end Sys2Proof.Machine
end

