-- ==== Sys2Proof/Machine/AluControl.lean ====
section
/-! DEFINITION. Sys2Proof/Machine/AluControl.lean: the fifteen codes of the ALU's 5-bit control, at the ALU's own ports
(42_alu.md R198 to R202, 45_instructions.md R339). A code is no instruction word (30_encoding.md R100): no fetch, no clock,
no register of the CPU. Running a code presents it at the ports; what the ports then give is `aluPortOut`, the ALU's
function of the wires, which holds no state (10_state.md R36; log 4). -/

namespace Sys2Proof.Machine

/-- ALU.ADD, `00:xx0` (42_alu.md R181, R201). -/
def execAluAdd (fn : AluFn) (s : State) : Answer := .next (presentAluCtrl 0b00 fn s)

/-- ALU.SUB, `00:xx1` (42_alu.md R182, R201). -/
def execAluSub (fn : AluFn) (s : State) : Answer := .next (presentAluCtrl 0b00 fn s)

/-- ALU.AND, `01:x00` (42_alu.md R191, R201). -/
def execAluAnd (fn : AluFn) (s : State) : Answer := .next (presentAluCtrl 0b01 fn s)

/-- ALU.OR, `01:x01` (42_alu.md R192, R201). -/
def execAluOr (fn : AluFn) (s : State) : Answer := .next (presentAluCtrl 0b01 fn s)

/-- ALU.XOR, `01:x10` (42_alu.md R193, R201). -/
def execAluXor (fn : AluFn) (s : State) : Answer := .next (presentAluCtrl 0b01 fn s)

/-- ALU.NOT, `01:x11` (42_alu.md R194, R201). -/
def execAluNot (fn : AluFn) (s : State) : Answer := .next (presentAluCtrl 0b01 fn s)

/-- ALU.SLL, `10:000` (41_barrel_shifter.md R153, 42_alu.md R201). -/
def execAluSll (s : State) : Answer := .next (presentAluCtrl 0b10 0b000 s)

/-- ALU.LSR, `10:001` (41_barrel_shifter.md R154, 42_alu.md R201). -/
def execAluLsr (s : State) : Answer := .next (presentAluCtrl 0b10 0b001 s)

/-- ALU.ASR, `10:010` (41_barrel_shifter.md R155, 42_alu.md R201). -/
def execAluAsr (s : State) : Answer := .next (presentAluCtrl 0b10 0b010 s)

/-- ALU.ROL, `10:011` (41_barrel_shifter.md R156, 42_alu.md R201). -/
def execAluRol (s : State) : Answer := .next (presentAluCtrl 0b10 0b011 s)

/-- ALU.ROR, `10:100` (41_barrel_shifter.md R157, 42_alu.md R201). -/
def execAluRor (s : State) : Answer := .next (presentAluCtrl 0b10 0b100 s)

/-- ALU.SHIFT_UNUSED_101, `10:101`: the shift unit gives zero (41_barrel_shifter.md R161, 42_alu.md R202). -/
def execAluShiftUnused101 (s : State) : Answer := .next (presentAluCtrl 0b10 0b101 s)

/-- ALU.SHIFT_UNUSED_110, `10:110`: the shift unit gives zero (41_barrel_shifter.md R161, 42_alu.md R202). -/
def execAluShiftUnused110 (s : State) : Answer := .next (presentAluCtrl 0b10 0b110 s)

/-- ALU.SHIFT_UNUSED_111, `10:111`: the shift unit gives zero (41_barrel_shifter.md R161, 42_alu.md R202). -/
def execAluShiftUnused111 (s : State) : Answer := .next (presentAluCtrl 0b10 0b111 s)

/-- ALU.UNIT_UNUSED, `11:xxx`: no unit is picked, the result is zero (42_alu.md R202). -/
def execAluUnitUnused (fn : AluFn) (s : State) : Answer := .next (presentAluCtrl 0b11 fn s)

end Sys2Proof.Machine
end

