-- ==== Sys2Proof/Machine/Arith.lean ====
section
/-! DEFINITION. Sys2Proof/Machine/Arith.lean: ADD and SUB (45_instructions.md R325, R326). A meaning starts in the state
after FETCH (R321). -/

namespace Sys2Proof.Machine

/-- ADD: ALU control `00:000` on AC and the memory operand (45_instructions.md R325). -/
def execAdd (a : Operand) (s : State) : Answer := execAluMemory 0b00 0b000 a s

/-- SUB: ALU control `00:001` on AC and the memory operand (45_instructions.md R326). -/
def execSub (a : Operand) (s : State) : Answer := execAluMemory 0b00 0b001 a s

end Sys2Proof.Machine
end

