-- ==== Sys2Proof/Machine/Jump.lean ====
section
/-! DEFINITION. Sys2Proof/Machine/Jump.lean: JUMP and JZ (45_instructions.md R329, R330, R338): absolute targets, nothing
saved. A meaning starts in the state after FETCH (R321), so PC is already the address of the jump plus one. -/

namespace Sys2Proof.Machine

/-- JUMP: `PC <- a`; four clocks (45_instructions.md R329). -/
def execJump (a : Operand) (s : State) : Answer := .next (endInstr 1 { s with pc := jumpTarget a })

/-- JZ: `PC <- a` if the Z flag is 1, else PC stays; four clocks either way (45_instructions.md R330). -/
def execJz (a : Operand) (s : State) : Answer :=
  .next (endInstr 1 { s with pc := if s.z then jumpTarget a else s.pc })

end Sys2Proof.Machine
end

