-- ==== Sys2Proof/Machine/Logic.lean ====
section
/-! DEFINITION. Sys2Proof/Machine/Logic.lean: AND, OR and XOR (45_instructions.md R332 to R334); C is the arithmetic unit's
carry-out for the same operands (42_alu.md R205, R208). A meaning starts in the state after FETCH (R321). -/

namespace Sys2Proof.Machine

/-- AND: ALU control `01:000` on AC and the memory operand (45_instructions.md R332). -/
def execAnd (a : Operand) (s : State) : Answer := execAluMemory 0b01 0b000 a s

/-- OR: ALU control `01:001` on AC and the memory operand (45_instructions.md R333). -/
def execOr (a : Operand) (s : State) : Answer := execAluMemory 0b01 0b001 a s

/-- XOR: ALU control `01:010` on AC and the memory operand (45_instructions.md R334). -/
def execXor (a : Operand) (s : State) : Answer := execAluMemory 0b01 0b010 a s

end Sys2Proof.Machine
end

