-- ==== Sys2Proof/Machine/MultDiv.lean ====
section
/-! DEFINITION. Sys2Proof/Machine/MultDiv.lean: MULT and DIV at instruction level (45_instructions.md R327, R328, R342),
both unsigned; the clock-level datapath is Machine/MdUnit.lean. A meaning starts in the state after FETCH (R321). -/

namespace Sys2Proof.Machine

/-- The exact 32-bit product of two unsigned words (45_instructions.md R327). -/
def product (x y : Word) : BitVec 32 := x.setWidth 32 * y.setWidth 32

/-- The result of the MD unit in the state: HI and LO, the flags Z and N of 43_control_unit.md R266, and the unit's hidden
registers as 43_control_unit.md R267 leaves them; the sequencer is IDLE (43_control_unit.md R237, R238). C is kept. -/
def setMdResult (isDiv : Signal) (hi lo m : Word) (s : State) : State :=
  { s with hi := hi, lo := lo, z := mdZero isDiv hi lo, n := mdNegative isDiv hi lo
           mdB := m, mdCnt := 0, mdOp := isDiv, fsm := .idle }

/-- MULT: `HI:LO <- AC * m`, Z and N of the product; AC and C kept; 25 clocks (45_instructions.md R327). -/
def execMult (a : Operand) (s : State) : Answer :=
  withMemOperand a s fun m t =>
    let p := product t.ac m
    .next (endInstr 22 (setMdResult false (p.extractLsb' 16 16) (p.extractLsb' 0 16) m t))

/-- DIV: `LO <- AC div m`, `HI <- AC mod m`, Z and N of the quotient, 25 clocks; for a zero divisor only the record in ERR
and 8 clocks (45_instructions.md R328, 60_exceptions.md R366). AC and C kept; the sequencer is IDLE in both cases. -/
def execDiv (a : Operand) (s : State) : Answer :=
  withMemOperand a s fun m t =>
    if m = 0 then .next (endInstr 5 (recordDivZero { t with fsm := .idle }))
    else .next (endInstr 22 (setMdResult true (t.ac.umod m) (t.ac.udiv m) m t))

end Sys2Proof.Machine
end

