-- ==== Sys2Proof/Machine/Shift.lean ====
section
/-! DEFINITION. Sys2Proof/Machine/Shift.lean: SHL and SHR (45_instructions.md R335, R336): the operand at ALU port B, the
amount its low four bits, no memory access. A meaning starts in the state after FETCH (R321). -/

namespace Sys2Proof.Machine

/-- SHL: ALU control `10:000` on AC and the operand; four clocks (45_instructions.md R335). -/
def execShl (a : Operand) (s : State) : Answer := .next (aluInstr 0b10 0b000 (shiftOperand a) 1 s)

/-- SHR: ALU control `10:001` on AC and the operand; four clocks (45_instructions.md R336). -/
def execShr (a : Operand) (s : State) : Answer := .next (aluInstr 0b10 0b001 (shiftOperand a) 1 s)

end Sys2Proof.Machine
end

