-- ==== Sys2Proof/Machine/System.lean ====
section
/-! DEFINITION. Sys2Proof/Machine/System.lean: NOP and HALT (45_instructions.md R322, R337, R341). A meaning starts in the
state after FETCH (R321). -/

namespace Sys2Proof.Machine

/-- NOP: nothing but FETCH; the operand is ignored; four clocks (45_instructions.md R322). -/
def execNop (_ : Operand) (s : State) : Answer := .next (endInstr 1 s)

/-- HALT: `RUN <- 0`; the operand is ignored; four clocks (45_instructions.md R337). -/
def execHalt (_ : Operand) (s : State) : Answer := .next (endInstr 1 { s with run := false })

end Sys2Proof.Machine
end

