-- ==== Sys2Proof/Machine/Transfer.lean ====
section
/-! DEFINITION. Sys2Proof/Machine/Transfer.lean: LOAD, STORE and LOADI (45_instructions.md R323, R324, R331). No flag is
written. A meaning starts in the state after FETCH (R321). -/

namespace Sys2Proof.Machine

/-- LOAD: `AC <- MemRead(a, 1)` through MAR and MDR; six clocks (45_instructions.md R323). -/
def execLoad (a : Operand) (s : State) : Answer :=
  withMemOperand a s fun m t => .next (endInstr 3 { t with ac := m })

/-- STORE: `MAR <- a; MDR <- AC; MemWrite(a, 1, AC)`; five clocks (45_instructions.md R324). -/
def execStore (a : Operand) (s : State) : Answer :=
  busWrite (setOperand (effectiveAddr a) s.ac s) (effectiveAddr a) s.ac fun t => .next (endInstr 2 t)

/-- LOADI: `AC <- a`, zero-extended; four clocks (45_instructions.md R331). -/
def execLoadi (a : Operand) (s : State) : Answer := .next (endInstr 1 { s with ac := immediate a })

end Sys2Proof.Machine
end

