-- ==== Sys2Proof/Machine/Dispatch.lean ====
section
/-! DEFINITION. Sys2Proof/Machine/Dispatch.lean: one arm per constructor of Instr. -/

namespace Sys2Proof.Machine

def exec (i : Instr) (s : State) : Host.Outcome State Fault Refusal :=
  match i with
  | .nop a => Sys2Proof.Machine.execNop a s
  | .load a => Sys2Proof.Machine.execLoad a s
  | .store a => Sys2Proof.Machine.execStore a s
  | .add a => Sys2Proof.Machine.execAdd a s
  | .sub a => Sys2Proof.Machine.execSub a s
  | .mult a => Sys2Proof.Machine.execMult a s
  | .div a => Sys2Proof.Machine.execDiv a s
  | .jump a => Sys2Proof.Machine.execJump a s
  | .jz a => Sys2Proof.Machine.execJz a s
  | .loadi a => Sys2Proof.Machine.execLoadi a s
  | .and a => Sys2Proof.Machine.execAnd a s
  | .or a => Sys2Proof.Machine.execOr a s
  | .xor a => Sys2Proof.Machine.execXor a s
  | .shl a => Sys2Proof.Machine.execShl a s
  | .shr a => Sys2Proof.Machine.execShr a s
  | .halt a => Sys2Proof.Machine.execHalt a s
  | .aluAdd fn => Sys2Proof.Machine.execAluAdd fn s
  | .aluSub fn => Sys2Proof.Machine.execAluSub fn s
  | .aluAnd fn => Sys2Proof.Machine.execAluAnd fn s
  | .aluOr fn => Sys2Proof.Machine.execAluOr fn s
  | .aluXor fn => Sys2Proof.Machine.execAluXor fn s
  | .aluNot fn => Sys2Proof.Machine.execAluNot fn s
  | .aluSll => Sys2Proof.Machine.execAluSll s
  | .aluLsr => Sys2Proof.Machine.execAluLsr s
  | .aluAsr => Sys2Proof.Machine.execAluAsr s
  | .aluRol => Sys2Proof.Machine.execAluRol s
  | .aluRor => Sys2Proof.Machine.execAluRor s
  | .aluShiftUnused101 => Sys2Proof.Machine.execAluShiftUnused101 s
  | .aluShiftUnused110 => Sys2Proof.Machine.execAluShiftUnused110 s
  | .aluShiftUnused111 => Sys2Proof.Machine.execAluShiftUnused111 s
  | .aluUnitUnused fn => Sys2Proof.Machine.execAluUnitUnused fn s

end Sys2Proof.Machine
end

