-- ==== Sys2Proof/Machine/Cycle.lean ====
section
/-! DEFINITION. Sys2Proof/Machine/Cycle.lean: the instruction cycle, `step()` of 44_cpu_cycle.md R296, and the state in which
a given encoding is the next thing to run. -/

namespace Sys2Proof.Machine

/-- `step()`: a no-op when halted (44_cpu_cycle.md R299); between instructions, FETCH and the fetched instruction's meaning
(45_instructions.md R320, R321); inside an instruction cycle, the clocks that are left of it (R296, R408; log 5). -/
def instructionCycle (s : State) : Answer :=
  if s.run then
    if betweenInstructions s then fetch s fun w t => exec (decodeWord w) t else clocksToEnd cycleBound s
  else .next s

/-- One step of the machine: a pending request at the ALU's own ports is taken up (log 4); else `step()`. -/
def machineStep (s : State) : Answer :=
  match s.aluPort.request with
  | some ctrl => exec (decodeAluCtrl ctrl) (clearAluRequest s)
  | none => instructionCycle s

/-- The map with an address added, unless it is mapped. -/
def mapWith (map : List AddrRange) (a : Word) : List AddrRange :=
  if mapped map a then map else { first := a, last := a } :: map

/-- The machine between two instructions, running, the bus free, nothing asked at the ALU's ports, and the word `w` at PC,
as a load of the program from outside leaves it (log 6). -/
def placeWord (w : Word) (s : State) : State :=
  { s with
    run := true, upc := 0, fsm := .idle, bus := .free
    aluPort := { s.aluPort with request := none }
    map := mapWith s.map s.pc
    mem := writeCells s.mem s.pc w }

/-- The ALU's ports asked to take up a control code (log 4). -/
def placeAluCtrl (ctrl : AluCtrl) (s : State) : State :=
  { s with aluPort := { s.aluPort with request := some ctrl } }

/-- An encoding as the next thing to run. -/
def placeEncoding (e : Encoding) (s : State) : State :=
  match e with
  | .word w => placeWord w s
  | .aluCtrl ctrl => placeAluCtrl ctrl s

/-- The bits of a table word as the next thing to run: nothing changes when they are no encoding. -/
def placeTableWord (nbits w : Nat) (s : State) : State :=
  match encodingOfBytes (tableWordBytes nbits w) with
  | .ok e => placeEncoding e s
  | .error _ => s

end Sys2Proof.Machine
end

