-- ==== Sys2Proof/Machine/Step.lean ====
section
/-! DEFINITION. Sys2Proof/Machine/Step.lean: the one step function, and the host's placing of an instruction. -/

namespace Sys2Proof.Machine

/-- One step of the machine: an instruction cycle (44_cpu_cycle.md R296), or a control code presented at the ALU's
own ports (log 4). -/
def step (s : State) : Host.Outcome State Fault Refusal := machineStep s

/-- The state `s` with an instruction, or an ALU control, as what the next step runs (log 6, log 12). -/
def State.withFetchWord (s : State) (nbits w : Nat) : State := placeTableWord nbits w s

end Sys2Proof.Machine
end

