-- ==== Sys2Proof/Machine/HostInterface.lean ====
section
/-! DEFINITION. Sys2Proof/Machine/HostInterface.lean: what the host can ask of the core between steps (44_cpu_cycle.md
R291): load memory, reset, a clock, an instruction cycle, a bounded run, the status surface, a copy of the control
store; and the collaborator's device registration (20_memory.md R67). -/

namespace Sys2Proof.Machine

/-- `reset()`: every piece of state at its reset value; main memory and what is mapped are untouched (10_state.md R39,
70_reset_and_hazards.md R390 to R392). -/
def systemReset (s : State) : State := { State.reset with mem := s.mem, map := s.map }

/-- Load memory before a run: words at addresses (44_cpu_cycle.md R291, 20_memory.md R62). DESIGN CHOICE (log 18): the words
that the image does not name are kept, and of two entries for an address the later is held. DESIGN CHOICE (log 17): a word
at an address that is not mapped when it is loaded is dropped, so that a device connected there later holds what an unlisted
word reads as. -/
def loadMemory (image : List (Word × Word)) (s : State) : State :=
  { s with mem := image.foldl (fun mem entry => memWrite s.map mem entry.1 entry.2) s.mem }

/-- The roles a device registers with (20_memory.md R67). -/
inductive DeviceRole where
  | master | slave
  deriving DecidableEq, Repr

/-- `connect_device`: a slave's address range becomes mapped; a second master is refused (20_memory.md R66, R67; log 7).
DESIGN CHOICE (log 19): a slave brings no contents of its own, so memory is left as it was. -/
def connectDevice (range : AddrRange) (role : DeviceRole) (s : State) : Answer :=
  match role with
  | .slave => .next { s with map := range :: s.map }
  | .master => .refused .secondMaster

/-- The ALU driven at its own ports: the operands at once, and a control code that the next step takes up (42_alu.md R198;
log 4). -/
def driveAluPorts (a b : Word) (ctrl : AluCtrl) (s : State) : State :=
  { s with aluPort := { s.aluPort with request := some ctrl, a := a, b := b } }

/-- `run(max)`: instruction cycles until RUN is 0 or `max` of them have been performed (44_cpu_cycle.md R303). -/
def runCycles : Nat → State → Answer
  | 0, s => .next s
  | max + 1, s =>
    if s.run then
      match instructionCycle s with
      | .next t => runCycles max t
      | .fault f => .fault f
      | .refused r => .refused r
    else .next s

/-- The status surface (60_exceptions.md R376). -/
structure Status where
  ac : Word
  pc : Word
  ir : Word
  mar : Word
  mdr : Word
  hi : Word
  lo : Word
  err : Word
  z : Signal
  n : Signal
  c : Signal
  cycleCount : Nat
  instrCount : Nat
  running : Signal
  deriving DecidableEq, Repr

/-- Read status: a snapshot, which changes nothing (60_exceptions.md R376, R378). -/
def status (s : State) : Status :=
  { ac := s.ac, pc := s.pc, ir := s.ir, mar := s.mar, mdr := s.mdr, hi := s.hi, lo := s.lo, err := s.err
    z := s.z, n := s.n, c := s.c, cycleCount := s.cycleCount, instrCount := s.instrCount, running := s.run }

/-- Save control store: the 256 words in address order, a read-only copy (43_control_unit.md R224). -/
def savedControlStore : List ControlWord := (List.range 256).map fun a => controlStore (BitVec.ofNat 8 a)

end Sys2Proof.Machine
end

