-- ==== Sys2Proof/Safety.lean ====
section
/-! DEFINITION. Sys2Proof/Safety.lean: the terms in which statements speak of a good state and a good run. -/

namespace Sys2Proof.Machine

/-- What holds between two instruction cycles: uPC is 0, the sequencer is IDLE, the bus is free (44_cpu_cycle.md R298). -/
abbrev AtBoundary (s : State) : Prop := s.upc = 0 ∧ s.fsm = .idle ∧ s.bus = .free

/-- The CPU is about to perform an instruction cycle: it runs, it is between instructions, and nothing is asked at the
ALU's own ports (44_cpu_cycle.md R296, R298; log 4). -/
abbrev Ready (s : State) : Prop := s.run = true ∧ AtBoundary s ∧ s.aluPort.request = none

/-- ERR has no bit but bit 0 (10_state.md R28). -/
abbrev ErrWf (s : State) : Prop := s.err &&& 0xFFFE#16 = 0

/-- Memory is in its canonical form and lists cells of mapped words only (20_memory.md R64, R65; log 2, log 3). -/
abbrev MemWf (s : State) : Prop :=
  memoryWf s.mem = true ∧ ∀ cell ∈ s.mem, mapped s.map (BitVec.ofNat 16 (cell.1 / 2)) = true

/-- Every instruction takes at least 4 clocks and at most 25 (44_cpu_cycle.md R297). -/
abbrev CountsWf (s : State) : Prop := 4 * s.instrCount ≤ s.cycleCount ∧ s.cycleCount ≤ 25 * s.instrCount

/-- The invariant of a run: the boundary of 44_cpu_cycle.md R298, ERR's reserved bits, the memory's form, and the
counters' relation. -/
abbrev Inv (s : State) : Prop := AtBoundary s ∧ ErrWf s ∧ MemWf s ∧ CountsWf s

/-- No divide by zero has been recorded (44_cpu_cycle.md R302). -/
abbrev NoDivZero (s : State) : Prop := s.err.getLsbD 0 = false

/-- The run is over (44_cpu_cycle.md R302). -/
abbrev Halted (s : State) : Prop := s.run = false

/-- What a program can observe, directly or by what it does next: AC, PC, Z, RUN and memory. HI, LO, ERR, N, C, the hidden
registers and the counters are not among it (10_state.md R24, R28, R32 to R34; 70_reset_and_hazards.md R403, R404). -/
abbrev ProgramEq (s t : State) : Prop :=
  s.ac = t.ac ∧ s.pc = t.pc ∧ s.z = t.z ∧ s.run = t.run ∧ s.mem = t.mem ∧ s.map = t.map

/-- The state after FETCH of the word `w` at PC, written out (45_instructions.md R321, 44_cpu_cycle.md R293). -/
abbrev fetched (w : Word) (s : State) : State :=
  { s with mar := s.pc, mdr := w, ir := w, pc := s.pc + 1, upc := 3, cycleCount := s.cycleCount + 3 }

/-- In every state that is about to perform an instruction cycle with the word `opcode * 4096 + operand` at PC, the step is
FETCH and then the instruction's meaning (45_instructions.md R320, R321; 30_encoding.md R91, R94). -/
abbrev FetchRuns (op : Opcode) (mk : Operand → Instr) : Prop :=
  ∀ (a : Operand) (s : State), Ready s → memRead s.map s.mem s.pc = wordOf op a →
    step s = exec (mk a) (fetched (wordOf op a) s)

/-- The clocks of an instruction cycle; `m` is the word at the memory operand's address (44_cpu_cycle.md R297). An ALU
control is no instruction word and takes none (30_encoding.md R100; log 4). -/
def clocksOf (m : Word) : Instr → Nat
  | .nop _ => 4
  | .load _ => 6
  | .store _ => 5
  | .add _ => 6
  | .sub _ => 6
  | .mult _ => 25
  | .div _ => if m = 0 then 8 else 25
  | .jump _ => 4
  | .jz _ => 4
  | .loadi _ => 4
  | .and _ => 6
  | .or _ => 6
  | .xor _ => 6
  | .shl _ => 4
  | .shr _ => 4
  | .halt _ => 4
  | .aluAdd _ => 0
  | .aluSub _ => 0
  | .aluAnd _ => 0
  | .aluOr _ => 0
  | .aluXor _ => 0
  | .aluNot _ => 0
  | .aluSll => 0
  | .aluLsr => 0
  | .aluAsr => 0
  | .aluRol => 0
  | .aluRor => 0
  | .aluShiftUnused101 => 0
  | .aluShiftUnused110 => 0
  | .aluShiftUnused111 => 0
  | .aluUnitUnused _ => 0

/-- The carry-out of the arithmetic unit in closed form: unsigned overflow of the sum, or no borrow of the difference
(42_alu.md R181, R182, R205). -/
abbrev carryOut (x y : Word) (sub : Signal) : Signal :=
  if sub then decide (y.toNat ≤ x.toNat) else decide (65536 ≤ x.toNat + y.toNat)

/-- The state with another control code at the ALU's own ports and nothing else changed (log 4). -/
abbrev portsWith (ctrl : AluCtrl) (s : State) : State := { s with aluPort := { s.aluPort with ctrl := ctrl } }

/-- The ALU's outputs for a result: Zero and Negative of it, Carry of the operands at the ports under `sub` (42_alu.md R203
to R205). -/
abbrev outputsOf (result : Word) (sub : Signal) (s : State) : AluOut :=
  { result := result, z := result == 0, n := result.getLsbD 15, c := carryOut s.aluPort.a s.aluPort.b sub }

end Sys2Proof.Machine
end

