-- ==== Sys2Proof/Certificates/Slice0/Obligations.lean ====
section
/-! DEFINITION. Sys2Proof/Certificates/Slice0/Obligations.lean: the statements for the provers. Rules are those of spec/;
"decision D<n>" is an entry of spec/92_eei_decisions.md, a choice the spec itself makes. -/

open Sys2Proof Sys2Proof.Machine

/-! ## Encoding -/

/-- Decoding the encoding of a well-formed instruction gives it back, over both formats (30_encoding.md sections 1 and 3,
42_alu.md section 4). -/
def Obligations.DecodeOfEncodeIsTheInstruction : Prop :=
  ∀ i : Instr, i.wellFormed = true → decode (encode i) = i

/-- 30_encoding.md R93: each of the 65536 words is exactly one instruction, the one its top four bits select. -/
def Obligations.EveryWordIsExactlyOneInstruction : Prop :=
  ∀ w : Word,
    (∀ i : Instr, (i.wellFormed = true ∧ encode i = .word w) ↔ i = decodeWord w) ∧
    (decodeWord w).isWord = true ∧
    (tableRow (decodeWord w)).mask = 0xF000#16 ∧ (tableRow (decodeWord w)).pattern = w &&& 0xF000#16

/-- Each of the 32 codes of the ALU's control is exactly one row of the table of 42_alu.md section 4, well formed. -/
def Obligations.EveryAluControlIsExactlyOneRow : Prop :=
  ∀ (ctrl : AluCtrl) (i : Instr), (i.wellFormed = true ∧ encode i = .aluCtrl ctrl) ↔ i = decodeAluCtrl ctrl

/-- 30_encoding.md R91: `opcode = IR >> 12`, `operand = IR mod 4096`, `IR = opcode * 4096 + operand`. -/
def Obligations.FieldsSplitAndRebuildTheWord : Prop :=
  ∀ w : Word,
    (opcodeField w).toNat = w.toNat >>> 12 ∧ (operandField w).toNat = w.toNat % 4096 ∧
    w.toNat = (opcodeField w).toNat * 4096 + (operandField w).toNat ∧
    wordOf (opcodeField w) (operandField w) = w

/-- The opcode map of 30_encoding.md section 3, with words written out bit by bit, and codes of the ALU control. -/
def Obligations.WrittenOutWordsDecode : Prop :=
  decodeWord 0b0000101010111100#16 = .nop 0xABC ∧ decodeWord 0b0001000000100000#16 = .load 0x020 ∧
  decodeWord 0b0010000000100001#16 = .store 0x021 ∧ decodeWord 0b0011000000110000#16 = .add 0x030 ∧
  decodeWord 0b0100000000110000#16 = .sub 0x030 ∧ decodeWord 0b0101000000010000#16 = .mult 0x010 ∧
  decodeWord 0b0110000000010001#16 = .div 0x011 ∧ decodeWord 0b0111101010111100#16 = .jump 0xABC ∧
  decodeWord 0b1000000000001000#16 = .jz 0x008 ∧ decodeWord 0b1001000000000101#16 = .loadi 5 ∧
  decodeWord 0b1010000000110000#16 = .and 0x030 ∧ decodeWord 0b1011000000110000#16 = .or 0x030 ∧
  decodeWord 0b1100000000010011#16 = .xor 0x013 ∧ decodeWord 0b1101000000000100#16 = .shl 4 ∧
  decodeWord 0b1110000000000001#16 = .shr 1 ∧ decodeWord 0b1111000000000000#16 = .halt 0 ∧
  decodeAluCtrl 0b00110#5 = .aluAdd 0b110 ∧ decodeAluCtrl 0b01011#5 = .aluNot 0b011 ∧
  decodeAluCtrl 0b10010#5 = .aluAsr ∧ decodeAluCtrl 0b11001#5 = .aluUnitUnused 0b001

/-! ## Instructions: the sixteen words

Each statement has two parts: in every state about to perform an instruction cycle with this word at PC, the step is FETCH
and then the meaning; and the meaning's next state, written out, which says also what stays. -/

/-- 45_instructions.md R322. -/
def Obligations.NopDoesNothingButFetch : Prop :=
  FetchRuns 0x0 Instr.nop ∧
  ∀ (a : Operand) (s : State),
    exec (.nop a) s = .next { s with upc := 0, cycleCount := s.cycleCount + 1, instrCount := s.instrCount + 1 }

/-- 45_instructions.md R323 (the operand's meaning is decision D11). -/
def Obligations.LoadPutsTheWordInAc : Prop :=
  FetchRuns 0x1 Instr.load ∧
  ∀ (a : Operand) (s : State), s.bus = .free →
    exec (.load a) s = .next
      { s with
        mar := zext16 a, mdr := memRead s.map s.mem (zext16 a), ac := memRead s.map s.mem (zext16 a)
        upc := 0, cycleCount := s.cycleCount + 3, instrCount := s.instrCount + 1 }

/-- 45_instructions.md section 2, STORE (R324; decisions D11 and, for an unmapped address, D23): the word at `a` becomes AC
where `a` is mapped, memory is unchanged where it is not, and no byte outside the word's two cells changes; the rest of the
state is written out. Reading back the word needs the memory's canonical form, which every step keeps. -/
def Obligations.StoreWritesAcAtTheOperand : Prop :=
  FetchRuns 0x2 Instr.store ∧
  ∀ (a : Operand) (s : State), s.bus = .free →
    ∃ t : State,
      exec (.store a) s = .next t ∧
      t = { s with
            mar := zext16 a, mdr := s.ac, mem := t.mem
            upc := 0, cycleCount := s.cycleCount + 2, instrCount := s.instrCount + 1 } ∧
      (mapped s.map (zext16 a) = true → memoryWf s.mem = true → memRead t.map t.mem (zext16 a) = s.ac) ∧
      (mapped s.map (zext16 a) = false → t.mem = s.mem) ∧
      (∀ k : Nat, k ≠ lowCell (effectiveAddr a) → k ≠ highCell (effectiveAddr a) →
        readByte t.mem k = readByte s.mem k) ∧
      (∀ b : Word, b ≠ zext16 a → memRead t.map t.mem b = memRead s.map s.mem b)

/-- 45_instructions.md R325 (decision D11). -/
def Obligations.AddLeavesSumAndCarry : Prop :=
  FetchRuns 0x3 Instr.add ∧
  ∀ (a : Operand) (s : State) (m : Word), s.bus = .free → memRead s.map s.mem (zext16 a) = m →
    exec (.add a) s = .next
      { s with
        mar := zext16 a, mdr := m, ac := s.ac + m
        z := decide ((s.ac.toNat + m.toNat) % 65536 = 0), n := (s.ac + m).getLsbD 15
        c := decide (65536 ≤ s.ac.toNat + m.toNat)
        upc := 0, cycleCount := s.cycleCount + 3, instrCount := s.instrCount + 1 }

/-- 45_instructions.md R326 (decision D11). -/
def Obligations.SubLeavesDifferenceAndNoBorrow : Prop :=
  FetchRuns 0x4 Instr.sub ∧
  ∀ (a : Operand) (s : State) (m : Word), s.bus = .free → memRead s.map s.mem (zext16 a) = m →
    exec (.sub a) s = .next
      { s with
        mar := zext16 a, mdr := m, ac := s.ac - m
        z := decide (s.ac = m), n := (s.ac - m).getLsbD 15, c := decide (m.toNat ≤ s.ac.toNat)
        upc := 0, cycleCount := s.cycleCount + 3, instrCount := s.instrCount + 1 }

/-- 45_instructions.md R327 (decisions D11, D14, D15). -/
def Obligations.MultLeavesTheExactProduct : Prop :=
  FetchRuns 0x5 Instr.mult ∧
  ∀ (a : Operand) (s : State) (m : Word) (p : Nat), s.bus = .free → memRead s.map s.mem (zext16 a) = m →
    p = s.ac.toNat * m.toNat →
    p ≤ 0xFFFE0001 ∧
    exec (.mult a) s = .next
      { s with
        mar := zext16 a, mdr := m, hi := BitVec.ofNat 16 (p / 65536), lo := BitVec.ofNat 16 p
        z := decide (p = 0), n := p.testBit 31, mdB := m, mdCnt := 0, mdOp := false, fsm := .idle
        upc := 0, cycleCount := s.cycleCount + 22, instrCount := s.instrCount + 1 }

/-- 45_instructions.md section 2, DIV (R328; decisions D11, D14 to D16, of which D16 fixes what the source leaves unspecified
after a zero divisor): both cases of the divisor, and `AC = LO * m + HI`. -/
def Obligations.DivLeavesQuotientAndRemainderOrRecordsZero : Prop :=
  FetchRuns 0x6 Instr.div ∧
  (∀ (a : Operand) (s : State) (m : Word), s.bus = .free → memRead s.map s.mem (zext16 a) = m → m ≠ 0 →
    s.ac.toNat = (s.ac.toNat / m.toNat) * m.toNat + s.ac.toNat % m.toNat ∧
    exec (.div a) s = .next
      { s with
        mar := zext16 a, mdr := m
        lo := BitVec.ofNat 16 (s.ac.toNat / m.toNat), hi := BitVec.ofNat 16 (s.ac.toNat % m.toNat)
        z := decide (s.ac.toNat / m.toNat = 0), n := (s.ac.toNat / m.toNat).testBit 15
        mdB := m, mdCnt := 0, mdOp := true, fsm := .idle
        upc := 0, cycleCount := s.cycleCount + 22, instrCount := s.instrCount + 1 }) ∧
  (∀ (a : Operand) (s : State), s.bus = .free → memRead s.map s.mem (zext16 a) = 0 →
    exec (.div a) s = .next
      { s with
        mar := zext16 a, mdr := 0, err := s.err ||| 1, fsm := .idle
        upc := 0, cycleCount := s.cycleCount + 5, instrCount := s.instrCount + 1 })

/-- 45_instructions.md R329 (decision D11): the target is the operand, always in 0x0000 to 0x0FFF. -/
def Obligations.JumpLoadsPcWithTheOperand : Prop :=
  FetchRuns 0x7 Instr.jump ∧
  ∀ (a : Operand) (s : State),
    (zext16 a).toNat ≤ 0x0FFF ∧
    exec (.jump a) s = .next
      { s with pc := zext16 a, upc := 0, cycleCount := s.cycleCount + 1, instrCount := s.instrCount + 1 }

/-- 45_instructions.md R330 (decisions D11, D13). -/
def Obligations.JzJumpsExactlyWhenZIsSet : Prop :=
  FetchRuns 0x8 Instr.jz ∧
  ∀ (a : Operand) (s : State),
    exec (.jz a) s = .next
      { s with
        pc := if s.z = true then zext16 a else s.pc
        upc := 0, cycleCount := s.cycleCount + 1, instrCount := s.instrCount + 1 }

/-- 45_instructions.md R331. -/
def Obligations.LoadiPutsTheOperandInAc : Prop :=
  FetchRuns 0x9 Instr.loadi ∧
  ∀ (a : Operand) (s : State),
    (zext16 a).toNat ≤ 4095 ∧
    exec (.loadi a) s = .next
      { s with ac := zext16 a, upc := 0, cycleCount := s.cycleCount + 1, instrCount := s.instrCount + 1 }

/-- 45_instructions.md R332 (decisions D11, D29). -/
def Obligations.AndLeavesTheConjunction : Prop :=
  FetchRuns 0xA Instr.and ∧
  ∀ (a : Operand) (s : State) (m : Word), s.bus = .free → memRead s.map s.mem (zext16 a) = m →
    exec (.and a) s = .next
      { s with
        mar := zext16 a, mdr := m, ac := s.ac &&& m, z := decide (s.ac &&& m = 0), n := (s.ac &&& m).getLsbD 15
        c := decide (65536 ≤ s.ac.toNat + m.toNat)
        upc := 0, cycleCount := s.cycleCount + 3, instrCount := s.instrCount + 1 }

/-- 45_instructions.md R333 (decisions D11, D29). -/
def Obligations.OrLeavesTheDisjunction : Prop :=
  FetchRuns 0xB Instr.or ∧
  ∀ (a : Operand) (s : State) (m : Word), s.bus = .free → memRead s.map s.mem (zext16 a) = m →
    exec (.or a) s = .next
      { s with
        mar := zext16 a, mdr := m, ac := s.ac ||| m, z := decide (s.ac ||| m = 0), n := (s.ac ||| m).getLsbD 15
        c := decide (m.toNat ≤ s.ac.toNat)
        upc := 0, cycleCount := s.cycleCount + 3, instrCount := s.instrCount + 1 }

/-- 45_instructions.md R334 (decisions D11, D29). -/
def Obligations.XorLeavesTheDifferenceOfBits : Prop :=
  FetchRuns 0xC Instr.xor ∧
  ∀ (a : Operand) (s : State) (m : Word), s.bus = .free → memRead s.map s.mem (zext16 a) = m →
    exec (.xor a) s = .next
      { s with
        mar := zext16 a, mdr := m, ac := s.ac ^^^ m, z := decide (s.ac = m), n := (s.ac ^^^ m).getLsbD 15
        c := decide (65536 ≤ s.ac.toNat + m.toNat)
        upc := 0, cycleCount := s.cycleCount + 3, instrCount := s.instrCount + 1 }

/-- 45_instructions.md R335 (decisions D5, D12, D29): the amount is `a[3:0]`, the carry takes all of `a`. -/
def Obligations.ShlShiftsLeftByTheLowFourBits : Prop :=
  FetchRuns 0xD Instr.shl ∧
  ∀ (a : Operand) (s : State) (r : Word), r = BitVec.ofNat 16 (s.ac.toNat * 2 ^ (a.toNat % 16)) →
    exec (.shl a) s = .next
      { s with
        ac := r, z := decide (r = 0), n := r.getLsbD 15, c := decide (65536 ≤ s.ac.toNat + a.toNat)
        upc := 0, cycleCount := s.cycleCount + 1, instrCount := s.instrCount + 1 }

/-- 45_instructions.md R336 (decisions D5, D12, D29): zeros enter at the top; N is 0 unless the amount is 0. -/
def Obligations.ShrShiftsRightByTheLowFourBits : Prop :=
  FetchRuns 0xE Instr.shr ∧
  ∀ (a : Operand) (s : State) (r : Word), r = BitVec.ofNat 16 (s.ac.toNat / 2 ^ (a.toNat % 16)) →
    exec (.shr a) s = .next
      { s with
        ac := r, z := decide (r = 0), n := decide (a.toNat % 16 = 0) && s.ac.getLsbD 15
        c := decide (a.toNat ≤ s.ac.toNat)
        upc := 0, cycleCount := s.cycleCount + 1, instrCount := s.instrCount + 1 }

/-- 45_instructions.md R337. -/
def Obligations.HaltClearsRun : Prop :=
  FetchRuns 0xF Instr.halt ∧
  ∀ (a : Operand) (s : State),
    exec (.halt a) s = .next
      { s with run := false, upc := 0, cycleCount := s.cycleCount + 1, instrCount := s.instrCount + 1 }

/-- A memory instruction that finds the bus held is refused by name, as is the fetch of any instruction: the model's choice
of log 7, after the last sentence of 20_memory.md R66 (such a configuration must be refused). -/
def Obligations.HeldBusRefusesEveryAccess : Prop :=
  ∀ (a : Operand) (s : State), s.bus ≠ .free →
    (∀ i ∈ [Instr.load a, .store a, .add a, .sub a, .mult a, .div a, .and a, .or a, .xor a],
      exec i s = .refused .busDenied) ∧
    (s.aluPort.request = none → s.run = true → betweenInstructions s = true → step s = .refused .busDenied)

/-! ## The ALU's own ports

That a code of the ALU's control runs at the ports and changes their control wires alone is the model's choice (log 4); that
the outputs are the ALU's function of the wires, held nowhere, is 10_state.md R36; the values are those of 42_alu.md and
41_barrel_shifter.md. -/

/-- The arithmetic rows (model's choice of log 4; values of 42_alu.md sections 1 and 4). -/
def Obligations.AluPortAddsAndSubtracts : Prop :=
  ∀ (fn : AluFn) (s : State),
    (fn.getLsbD 0 = false → exec (.aluAdd fn) s = .next (portsWith (0b00#2 ++ fn) s) ∧
      aluPortOut (portsWith (0b00#2 ++ fn) s) = outputsOf (s.aluPort.a + s.aluPort.b) false s) ∧
    (fn.getLsbD 0 = true → exec (.aluSub fn) s = .next (portsWith (0b00#2 ++ fn) s) ∧
      aluPortOut (portsWith (0b00#2 ++ fn) s) = outputsOf (s.aluPort.a - s.aluPort.b) true s)

/-- The logical rows; C is the arithmetic unit's carry-out under `fn[0]` (model's choice of log 4; values of 42_alu.md
sections 2, 4 and 5). -/
def Obligations.AluPortLogicalRows : Prop :=
  ∀ (fn : AluFn) (s : State),
    (fn.setWidth 2 = 0b00#2 → exec (.aluAnd fn) s = .next (portsWith (0b01#2 ++ fn) s) ∧
      aluPortOut (portsWith (0b01#2 ++ fn) s) = outputsOf (s.aluPort.a &&& s.aluPort.b) false s) ∧
    (fn.setWidth 2 = 0b01#2 → exec (.aluOr fn) s = .next (portsWith (0b01#2 ++ fn) s) ∧
      aluPortOut (portsWith (0b01#2 ++ fn) s) = outputsOf (s.aluPort.a ||| s.aluPort.b) true s) ∧
    (fn.setWidth 2 = 0b10#2 → exec (.aluXor fn) s = .next (portsWith (0b01#2 ++ fn) s) ∧
      aluPortOut (portsWith (0b01#2 ++ fn) s) = outputsOf (s.aluPort.a ^^^ s.aluPort.b) false s) ∧
    (fn.setWidth 2 = 0b11#2 → exec (.aluNot fn) s = .next (portsWith (0b01#2 ++ fn) s) ∧
      aluPortOut (portsWith (0b01#2 ++ fn) s) = outputsOf (~~~ s.aluPort.a) true s)

/-- The five shift rows, by the closed forms, on the low four bits of B; and the unused rows, which give zero, with Z set,
N clear and C still the arithmetic carry-out (model's choice of log 4; values of 41_barrel_shifter.md sections 2 and 4 and
42_alu.md sections 3 to 5). -/
def Obligations.AluPortShiftAndUnusedRows : Prop :=
  ∀ (fn : AluFn) (s : State) (amt : ShiftAmount), amt = BitVec.ofNat 4 s.aluPort.b.toNat →
    (exec .aluSll s = .next (portsWith 0b10000#5 s) ∧
      aluPortOut (portsWith 0b10000#5 s) = outputsOf (sllClosed s.aluPort.a amt) false s) ∧
    (exec .aluLsr s = .next (portsWith 0b10001#5 s) ∧
      aluPortOut (portsWith 0b10001#5 s) = outputsOf (lsrClosed s.aluPort.a amt) true s) ∧
    (exec .aluAsr s = .next (portsWith 0b10010#5 s) ∧
      aluPortOut (portsWith 0b10010#5 s) = outputsOf (asrClosed s.aluPort.a amt) false s) ∧
    (exec .aluRol s = .next (portsWith 0b10011#5 s) ∧
      aluPortOut (portsWith 0b10011#5 s) = outputsOf (rolClosed s.aluPort.a amt) true s) ∧
    (exec .aluRor s = .next (portsWith 0b10100#5 s) ∧
      aluPortOut (portsWith 0b10100#5 s) = outputsOf (rorClosed s.aluPort.a amt) false s) ∧
    (exec .aluShiftUnused101 s = .next (portsWith 0b10101#5 s) ∧
      aluPortOut (portsWith 0b10101#5 s) = outputsOf 0 true s) ∧
    (exec .aluShiftUnused110 s = .next (portsWith 0b10110#5 s) ∧
      aluPortOut (portsWith 0b10110#5 s) = outputsOf 0 false s) ∧
    (exec .aluShiftUnused111 s = .next (portsWith 0b10111#5 s) ∧
      aluPortOut (portsWith 0b10111#5 s) = outputsOf 0 true s) ∧
    (exec (.aluUnitUnused fn) s = .next (portsWith (0b11#2 ++ fn) s) ∧
      aluPortOut (portsWith (0b11#2 ++ fn) s) = outputsOf 0 (fn.getLsbD 0) s)

/-! ## ALU and its blocks -/

/-- 40_primitives.md R122. -/
def Obligations.FullAdderAddsThreeBits : Prop :=
  ∀ a b cin : Signal,
    (fullAdder a b cin).1 = ((a ^^ b) ^^ cin) ∧ (fullAdder a b cin).2 = ((a && b) || ((a ^^ b) && cin)) ∧
    2 * (fullAdder a b cin).2.toNat + (fullAdder a b cin).1.toNat = a.toNat + b.toNat + cin.toNat

/-- The ripple adder and the arithmetic unit in closed form: addition and subtraction modulo 2^16 with their carry-outs,
which the spec marks as derived (40_primitives.md section 4, "the closed form follows from rule R122 by induction on the
lane"; 42_alu.md section 1, the carry of a subtraction). -/
def Obligations.RippleAdderAndArithUnitAreArithmetic : Prop :=
  (∀ (a b : Word) (cin : Signal),
    (rippleAdd16 a b cin).1.toNat = (a.toNat + b.toNat + cin.toNat) % 65536 ∧
    (rippleAdd16 a b cin).2.toNat = (a.toNat + b.toNat + cin.toNat) / 65536) ∧
  ∀ a b : Word,
    arithUnit a b false = (a + b, decide (65536 ≤ a.toNat + b.toNat)) ∧
    arithUnit a b true = (a - b, decide (b.toNat ≤ a.toNat))

/-- 42_alu.md R190: each mode's function on every lane; NOT ignores B. -/
def Obligations.LogicUnitFunctions : Prop :=
  ∀ a b : Word,
    logicUnit a b 0b00 = a &&& b ∧ logicUnit a b 0b01 = a ||| b ∧ logicUnit a b 0b10 = a ^^^ b ∧
    logicUnit a b 0b11 = ~~~ a

/-- The staged cascade of every shift engine agrees with its closed form, for all inputs and amounts: the spec marks this
as derived (41_barrel_shifter.md section 2, R160's sentence). -/
def Obligations.StagedShiftersAgreeWithClosedForms : Prop :=
  ∀ (x : Word) (amt : ShiftAmount),
    sll x amt = sllClosed x amt ∧ lsr x amt = lsrClosed x amt ∧ asr x amt = asrClosed x amt ∧
    rol x amt = rolClosed x amt ∧ ror x amt = rorClosed x amt

/-- 41_barrel_shifter.md section 4 (R161; the code values are the spec's own choice, decision D4), and section 3: shift amount
0 is the identity of every engine. -/
def Obligations.ShiftModePicksTheEngine : Prop :=
  ∀ (x : Word) (amt : ShiftAmount),
    shiftUnit x amt 0b000 = sll x amt ∧ shiftUnit x amt 0b001 = lsr x amt ∧ shiftUnit x amt 0b010 = asr x amt ∧
    shiftUnit x amt 0b011 = rol x amt ∧ shiftUnit x amt 0b100 = ror x amt ∧
    shiftUnit x amt 0b101 = 0 ∧ shiftUnit x amt 0b110 = 0 ∧ shiftUnit x amt 0b111 = 0 ∧
    sll x 0 = x ∧ lsr x 0 = x ∧ asr x 0 = x ∧ rol x 0 = x ∧ ror x 0 = x

/-- 42_alu.md R203, R204, R205: Zero and Negative of the selected result, Carry of the arithmetic unit whatever `ALUop` is
(decision D29). -/
def Obligations.AluFlagsOfEveryEvaluation : Prop :=
  ∀ (a b : Word) (op : AluOp) (fn : AluFn),
    ((alu a b op fn).z = true ↔ (alu a b op fn).result = 0) ∧
    (alu a b op fn).n = (alu a b op fn).result.getLsbD 15 ∧
    (alu a b op fn).c = (arithUnit a b (fn.getLsbD 0)).2 ∧
    (alu a b op fn).c = carryOut a b (fn.getLsbD 0)

/-- 40_primitives.md section 6: exactly one line is 1, the packed value is `2^x` (the packing is the spec's own choice,
decision D7), and the netlist, which the spec takes from general knowledge, has the same lines. -/
def Obligations.DecoderIsOneHot : Prop :=
  ∀ x : BitVec 4,
    (∀ k < 16, (decoderLine x k = true ↔ x.toNat = k) ∧ decoderLineGates x k = decoderLine x k) ∧
    (decoder4to16 x).toNat = 2 ^ x.toNat ∧ ∀ k < 16, (decoder4to16 x).getLsbD k = decoderLine x k

/-- The checked operations of the outer interface, 40_primitives.md R112 and R113: range and index checks, the bit read and
the bit replaced with every other bit kept; and the decimal and binary views of section 2. -/
def Obligations.WordInterfaceChecksAndKeepsBits : Prop :=
  (∀ width v : Nat,
    (v < 2 ^ width → wordSetBinary width v = .ok (BitVec.ofNat width v) ∧
      wordToDecimal (BitVec.ofNat width v) = v ∧ (wordToBinaryChars (BitVec.ofNat width v)).length = width) ∧
    (¬ v < 2 ^ width → wordSetBinary width v = .error .rangeError) ∧
    (wordNew width v = if 1 ≤ width ∧ width ≤ 64 then wordSetBinary width v else .error .rangeError)) ∧
  (∀ (width : Nat) (v : BitVec width) (i : Nat) (b : Signal),
    (i < width → wordGetBit v i = .ok (v.getLsbD (width - 1 - i)) ∧ wordSetBit v i b = .ok (wordPutBit v i b) ∧
      wordIndexBit (wordPutBit v i b) i = b ∧
      ∀ j < width, j ≠ i → wordIndexBit (wordPutBit v i b) j = wordIndexBit v j) ∧
    (¬ i < width → wordGetBit v i = .error .indexError ∧ wordSetBit v i b = .error .indexError))

/-- The gates with an input left unconnected, which reads as 0 (40_primitives.md section 3; decision D8), and the netlists
of the multiplexers (section 5, from general knowledge). -/
def Obligations.UnconnectedInputsReadZero : Prop :=
  (∀ a : Signal,
    Gate.evaluate ⟨.and, 2, [some a, none]⟩ = false ∧ Gate.evaluate ⟨.or, 2, [some a]⟩ = a ∧
    Gate.evaluate ⟨.xor, 2, [some a]⟩ = a ∧ Gate.evaluate ⟨.not, 1, []⟩ = true ∧
    Gate.evaluate ⟨.not, 1, [some a]⟩ = !a) ∧
  ∀ i0 i1 i2 i3 i4 i5 i6 i7 : Signal,
    (∀ sel, mux2Gates i0 i1 sel = mux2 i0 i1 sel) ∧ (∀ sel, mux4Gates i0 i1 i2 i3 sel = mux4 i0 i1 i2 i3 sel) ∧
    ∀ sel, mux8Gates i0 i1 i2 i3 i4 i5 i6 i7 sel = mux8 i0 i1 i2 i3 i4 i5 i6 i7 sel

/-! ## Memory and bus -/

/-- 20_memory.md section 1 (R63, R64; the discarded write is the spec's own choice, decision D23), on any sequence of
writes: a read of a mapped address gives the word last written there, or the word memory held; of an unmapped address the
sentinel; a write to an unmapped address changes nothing; a read never faults and changes no state. Memory starts in its
canonical form, which every write keeps. -/
def Obligations.ReadGivesTheLastWordWritten : Prop :=
  ∀ (map : List AddrRange) (mem : Memory) (writes : List (Word × Word)) (a : Word), memoryWf mem = true →
    (mapped map a = true →
      memRead map (writes.foldl (fun m e => memWrite map m e.1 e.2) mem) a =
        ((writes.reverse.find? fun e => e.1 == a).map Prod.snd).getD (memRead map mem a)) ∧
    (mapped map a = false →
      memRead map (writes.foldl (fun m e => memWrite map m e.1 e.2) mem) a = 0xFFFF ∧
      ∀ v : Word, memWrite map mem a v = mem) ∧
    ∀ (s : State) (k : Word → State → Answer), s.bus = .free → busRead s a k = k (memRead s.map s.mem a) s

/-- The bus of 20_memory.md section 1: granted when free, denied and unchanged when held, freed by its holder alone; the
owner is free before and after every clock, and a clock that asks for a held bus is refused (log 7). -/
def Obligations.BusHasOneMasterAtATime : Prop :=
  (∀ id m : BusMaster,
    busAcquire id .free = (.heldBy id, true) ∧ busAcquire id (.heldBy m) = (.heldBy m, false) ∧
    busRelease id (.heldBy id) = .free ∧ busRelease id .free = .free ∧
    (m ≠ id → busRelease id (.heldBy m) = .heldBy m)) ∧
  (∀ s : State, s.bus = .free → ∃ t : State, clock s = .next t ∧ t.bus = .free) ∧
  (∀ s : State, s.bus ≠ .free → s.run = true →
    (controlLines s).memRd = true ∨ (controlLines s).memWr = true → clock s = .refused .busDenied)

/-- A fetch from an unmapped address executes the sentinel as HALT and leaves PC one past it: 20_memory.md section 3 (R73,
which the spec marks as derived). -/
def Obligations.UnmappedFetchHalts : Prop :=
  ∀ s : State, Ready s → mapped s.map s.pc = false →
    step s = .next
      { s with
        mar := s.pc, mdr := 0xFFFF, ir := 0xFFFF, pc := s.pc + 1, run := false
        upc := 0, cycleCount := s.cycleCount + 4, instrCount := s.instrCount + 1 }

/-- A STORE to the next address is what the very next instruction cycle fetches and runs: 20_memory.md section 5 (R78, which
the spec marks as derived). -/
def Obligations.StoreIsSeenByTheNextFetch : Prop :=
  ∀ (a : Operand) (s : State), Ready s → memRead s.map s.mem s.pc = wordOf 0x2 a → s.pc + 1 = zext16 a →
    mapped s.map (zext16 a) = true → memoryWf s.mem = true →
    ∃ t : State, step s = .next t ∧ Ready t ∧ t.pc = zext16 a ∧ t.ac = s.ac ∧
      step t = exec (decodeWord s.ac) (fetched s.ac t)

/-! ## Control unit -/

/-- 43_control_unit.md section 3 (R230, R247): the three fetch words in every row, and 0xF3 the only word with the HALT bit, with
END_INSTR; and each row has exactly one END_INSTR, after which its words are zero (section 1). -/
def Obligations.ControlStoreRows : Prop :=
  (∀ op : Opcode, controlStore (storeAddr op 0) = 0x00002000 ∧ controlStore (storeAddr op 1) = 0x00048400 ∧
    controlStore (storeAddr op 2) = 0x00020000) ∧
  controlStore 0xF3 = 0xC0000000 ∧
  (∀ addr : StoreAddr, (signalGenerator (controlStore addr)).halt = true ↔ addr = 0xF3) ∧
  ∀ op : Opcode, ∃ last : MicroStep, 3 ≤ last.toNat ∧ last.toNat ≤ 7 ∧
    (∀ step : MicroStep, (signalGenerator (controlStore (storeAddr op step))).endInstr = true ↔ step = last) ∧
    ∀ step : MicroStep, last.toNat < step.toNat → controlStore (storeAddr op step) = 0

/-- 43_control_unit.md R249. -/
def Obligations.MicrocounterPriority : Prop :=
  ∀ (value loadValue : MicroStep) (load inc : Signal),
    microCounterNext value true load loadValue inc = 0 ∧
    microCounterNext value false true loadValue inc = loadValue ∧
    (microCounterNext value false false loadValue true).toNat = (value.toNat + 1) % 16 ∧
    microCounterNext value false false loadValue false = value

/-- 43_control_unit.md section 6 (R256; the order of the inputs is the spec's own choice, decision D19). -/
def Obligations.SequencerTransitions : Prop :=
  ∀ (f : Fsm) (startMul startDiv divZero done : Signal),
    fsmNext f true startMul startDiv divZero done = .idle ∧
    fsmNext .idle false true startDiv divZero done = .multInit ∧
    fsmNext .idle false false true true done = .error ∧
    fsmNext .idle false false true false done = .divInit ∧
    fsmNext .idle false false false divZero done = .idle ∧
    fsmNext .multInit false startMul startDiv divZero done = .multCycle ∧
    fsmNext .multCycle false startMul startDiv divZero false = .multCycle ∧
    fsmNext .multCycle false startMul startDiv divZero true = .idle ∧
    fsmNext .divInit false startMul startDiv divZero done = .divCycle ∧
    fsmNext .divCycle false startMul startDiv divZero false = .divCycle ∧
    fsmNext .divCycle false startMul startDiv divZero true = .idle ∧
    fsmNext .error false startMul startDiv divZero done = .error

/-- The loop invariant of the multiplier, which the spec gives from general knowledge (43_control_unit.md section 7, R264's
sentence): after `j` iterations `HI:LO = (a mod 2^j) * b * 2^(16 - j) + a div 2^j`; after sixteen, the product. -/
def Obligations.MultiplierLoopInvariant : Prop :=
  ∀ (a b : Word) (j : Nat), j ≤ 16 →
    let r := iterateMd multIteration j (mdInit a b false)
    r.hi.toNat * 65536 + r.lo.toNat = (a.toNat % 2 ^ j) * b.toNat * 2 ^ (16 - j) + a.toNat / 2 ^ j ∧
    r.b = b ∧ r.cnt.toNat = j % 16 ∧ r.op = false

/-- The loop invariant of the divider, which the spec gives from general knowledge (43_control_unit.md section 7, R265's
sentence), for a divisor that is not zero. -/
def Obligations.DividerLoopInvariant : Prop :=
  ∀ (a b : Word) (j : Nat), b ≠ 0 → j ≤ 16 →
    let r := iterateMd divIteration j (mdInit a b true)
    r.hi.toNat = (a.toNat / 2 ^ (16 - j)) % b.toNat ∧
    r.lo.toNat = (a.toNat % 2 ^ (16 - j)) * 2 ^ j + (a.toNat / 2 ^ (16 - j)) / b.toNat ∧
    r.b = b ∧ r.cnt.toNat = j % 16 ∧ r.op = true

/-! ## Clock, instruction cycle, run -/

/-- When the word at PC is the encoding of a well-formed instruction, the step is FETCH and that instruction's meaning
(45_instructions.md section 1, 44_cpu_cycle.md section 4); a control code asked at the ALU's ports runs its own row (model's
choice of log 4). -/
def Obligations.StepRunsTheDecodedInstruction : Prop :=
  (∀ (i : Instr) (s : State), Ready s → i.wellFormed = true → encode i = .word (memRead s.map s.mem s.pc) →
    step s = exec i (fetched (memRead s.map s.mem s.pc) s)) ∧
  (∀ (i : Instr) (ctrl : AluCtrl) (s : State), s.aluPort.request = some ctrl → i.wellFormed = true →
    encode i = .aluCtrl ctrl → step s = exec i { s with aluPort := { s.aluPort with request := none } })

/-- The three fetch clocks of 44_cpu_cycle.md section 3, which the spec marks as derived (R293's table). -/
def Obligations.ThreeClocksFetch : Prop :=
  ∀ s : State, Ready s → clocks 3 s = .next (fetched (memRead s.map s.mem s.pc) s)

/-- Headline: the clock level and the instruction level are the same machine (44_cpu_cycle.md section 4, R301's sentence,
which the spec marks as derived): from every state about to perform an instruction cycle, `clock()` until `END_INSTR` gives
exactly the state the instruction's rule gives, in every register, memory and both counters. -/
def Obligations.ClocksAndInstructionRulesAgree : Prop :=
  ∀ s : State, Ready s → clocksToEnd cycleBound s = step s

/-- The clocks of every instruction (44_cpu_cycle.md section 4, R297's table, which the spec marks as derived). -/
def Obligations.EveryInstructionTakesItsClocks : Prop :=
  ∀ (s : State) (w m : Word), Ready s → memRead s.map s.mem s.pc = w →
    memRead s.map s.mem (zext16 (operandField w)) = m →
    ∃ t : State, step s = .next t ∧ t.cycleCount = s.cycleCount + clocksOf m (decodeWord w) ∧
      t.instrCount = s.instrCount + 1

/-- From any running state with the bus free, whatever the microcounter and the sequencer hold, an `END_INSTR` clock comes
within the bound of log 5 (44_cpu_cycle.md section 4 and 70_reset_and_hazards.md section 3). -/
def Obligations.EveryInstructionCycleEnds : Prop :=
  ∀ s : State, s.run = true → s.bus = .free →
    ∃ t : State, clocksToEnd cycleBound s = .next t ∧ t.upc = 0 ∧ t.instrCount = s.instrCount + 1

/-- The boundary invariant of 44_cpu_cycle.md section 4 (R298, which the spec marks as derived): uPC 0, sequencer IDLE, bus
free; kept by every step. -/
def Obligations.StepKeepsTheBoundary : Prop :=
  ∀ s t : State, AtBoundary s → step s = .next t → AtBoundary t

/-- Headline: the invariant of a run is kept by every step: the boundary, ERR's reserved bits 0 (10_state.md section 5), memory
in canonical form with mapped cells only (20_memory.md section 1; log 1 to log 3), and 4 to 25 clocks for each instruction
(44_cpu_cycle.md section 4). -/
def Obligations.StepKeepsTheInvariant : Prop :=
  ∀ s t : State, Inv s → step s = .next t → Inv t

/-- The invariant holds after reset, and the machine is about to perform an instruction cycle (10_state.md section 9; the
memory's empty list is log 2). -/
def Obligations.ResetHasTheInvariant : Prop :=
  Inv State.reset ∧ Ready State.reset

/-- System reset puts every piece of state at the value of the table of 10_state.md section 9 (some of whose values the spec
marks as derived or decided) and leaves memory (and what is mapped) as it was; the state after reset is one that reset
leaves alone. -/
def Obligations.ResetPutsEveryRegisterAtItsValue : Prop :=
  ∀ s r : State, r = systemReset s →
    r.ac = 0 ∧ r.pc = 0 ∧ r.ir = 0 ∧ r.mar = 0 ∧ r.mdr = 0 ∧ r.hi = 0 ∧ r.lo = 0 ∧ r.err = 0 ∧
    r.z = false ∧ r.n = false ∧ r.c = false ∧ r.run = true ∧ r.upc = 0 ∧ r.fsm = .idle ∧
    r.mdB = 0 ∧ r.mdCnt = 0 ∧ r.mdOp = false ∧ r.cycleCount = 0 ∧ r.instrCount = 0 ∧ r.bus = .free ∧
    r.mem = s.mem ∧ r.map = s.map ∧ systemReset State.reset = State.reset

/-- 44_cpu_cycle.md R299: with RUN = 0, `clock()`, `step()` and `run(max)` change no state, and `reset()` leaves the halted
state. -/
def Obligations.HaltedStateIsFinalUntilReset : Prop :=
  ∀ s : State, s.run = false →
    clock s = .next s ∧ instructionCycle s = .next s ∧ (∀ max : Nat, runCycles max s = .next s) ∧
    (s.aluPort.request = none → step s = .next s) ∧ (systemReset s).run = true

/-- The core is halted only by a word whose top four bits are 0xF, and halted it stays (44_cpu_cycle.md section 5). -/
def Obligations.OnlyOpcodeFHalts : Prop :=
  (∀ s t : State, Ready s → step s = .next t →
    (t.run = false ↔ opcodeField (memRead s.map s.mem s.pc) = 0xF)) ∧
  ∀ s t : State, s.run = false → step s = .next t → t.run = false

/-- A step and a clock of a core whose bus is free always give a next state, whatever the state, and with RUN = 0 the same
state (60_exceptions.md section 1; a held bus is log 7, a request at the ALU's ports log 4). -/
def Obligations.EveryStepGivesANextState : Prop :=
  ∀ s : State, s.bus = .free →
    (∃ t : State, step s = .next t ∧ (s.run = false → s.aluPort.request = none → t = s)) ∧
    ∃ u : State, clock s = .next u ∧ (s.run = false → u = s)

/-- 60_exceptions.md R367: ERR[0] is set by a divide by zero, sticky under every step, cleared by system reset, and read by
no instruction: what an instruction does besides ERR does not depend on ERR. -/
def Obligations.DivideByZeroRecordIsSticky : Prop :=
  (∀ s t : State, step s = .next t → s.err.getLsbD 0 = true → t.err.getLsbD 0 = true) ∧
  (∀ s t : State, Ready s → step s = .next t →
    t.err = if opcodeField (memRead s.map s.mem s.pc) = 0x6 ∧
        memRead s.map s.mem (zext16 (operandField (memRead s.map s.mem s.pc))) = 0
      then s.err ||| 1 else s.err) ∧
  (∀ s : State, (systemReset s).err = 0) ∧
  ∀ (i : Instr) (s t : State) (e : Word), exec i s = .next t →
    ∃ u : State, exec i { s with err := e } = .next u ∧ { u with err := t.err } = t

/-- Headline: what a program does next never depends on HI, LO, ERR, N, C, IR, MAR, MDR, the hidden registers or the
counters: two machines that agree on AC, PC, Z, RUN and memory agree on them after any number of instruction cycles
(10_state.md sections 4 to 7, 70_reset_and_hazards.md section 3). -/
def Obligations.ProgramsSeeOnlyAcPcZRunAndMemory : Prop :=
  ∀ (k : Nat) (s t : State), AtBoundary s → AtBoundary t → ProgramEq s t →
    ∃ s' t' : State, runCycles k s = .next s' ∧ runCycles k t = .next t' ∧ ProgramEq s' t'

/-- `run(max)` of 44_cpu_cycle.md section 5: stopping at the bound and continuing is one longer run, and where the bound
stops it the state is an ordinary one between instructions. -/
def Obligations.BoundedRunsCompose : Prop :=
  ∀ (j k : Nat) (s : State), AtBoundary s →
    ∃ t : State, runCycles j s = .next t ∧ AtBoundary t ∧ runCycles (j + k) s = runCycles k t

/-- Bits an instruction ignores change nothing (30_encoding.md section 4, R96, which the spec marks as derived): the whole
operand of NOP and HALT, and `operand[11:4]` of SHL and SHR as far as every field but C goes. -/
def Obligations.IgnoredOperandBitsChangeNothing : Prop :=
  ∀ (a b : Operand) (s : State),
    exec (.nop a) s = exec (.nop b) s ∧ exec (.halt a) s = exec (.halt b) s ∧
    (a.toNat % 16 = b.toNat % 16 →
      (∃ t u : State, exec (.shl a) s = .next t ∧ exec (.shl b) s = .next u ∧ { u with c := t.c } = t) ∧
      ∃ t u : State, exec (.shr a) s = .next t ∧ exec (.shr b) s = .next u ∧ { u with c := t.c } = t)

/-! ## No output of the ALU is held -/

/-- The ALU driven at its own ports from any state: the next step presents the code and changes nothing else, and the
outputs are the ALU's of the operands and the code now there, whatever was there before; and no instruction cycle touches
the wires (10_state.md section 7, 42_alu.md section 4; that the next step takes the code up is the model's choice, log 4). -/
def Obligations.AluPortOutputsAreNeverStale : Prop :=
  (∀ (a b : Word) (ctrl : AluCtrl) (s : State),
    ∃ t : State, step (driveAluPorts a b ctrl s) = .next t ∧
      t = { s with aluPort := { request := none, a := a, b := b, ctrl := ctrl } } ∧
      aluPortOut t = alu a b (ctrl.extractLsb' 3 2) (ctrl.extractLsb' 0 3)) ∧
  ∀ s t : State, s.aluPort.request = none → step s = .next t → t.aluPort = s.aluPort ∧ aluPortOut t = aluPortOut s
end

