-- ==== Sys2Proof/Laws/Memory.lean ====
section
/-! SUPPORT. Sys2Proof/Laws/Memory.lean: the laws of the byte cells and of the word reads and writes over them. -/

namespace Sys2Proof.Machine

/-! ## Frame: a write leaves every other cell alone -/

theorem readByte_consCell_ne {j k : Nat} (h : k ≠ j) (v : BitVec 8) (m : Memory) :
    readByte (consCell k v m) j = readByte m j := by
  unfold consCell
  split
  · rfl
  · simp [readByte, h.symm]

/-- A byte write leaves every other byte. -/
theorem readByte_writeByte_ne {j k : Nat} (h : k ≠ j) (v : BitVec 8) (m : Memory) :
    readByte (writeByte m k v) j = readByte m j := by
  induction m with
  | nil => simpa [writeByte] using readByte_consCell_ne h v []
  | cons cell rest ih =>
    obtain ⟨k', v'⟩ := cell
    unfold writeByte
    split
    · exact readByte_consCell_ne h v _
    · split
      · next hk =>
        rw [readByte_consCell_ne h]
        simp [readByte, show j ≠ k' by omega]
      · by_cases hj : j = k' <;> simp [readByte, hj, ih]

/-! ## The canonical form -/

/-- The canonical form of a non-empty list: the first cell is legal, every later one lies above it, and the rest is in
form. -/
theorem memoryWf_cons (k : Nat) (v : BitVec 8) (m : Memory) :
    memoryWf ((k, v) :: m) = true ↔
      k < cellCount ∧ v ≠ unlistedByte ∧ (∀ cell ∈ m.head?, k < cell.1) ∧ memoryWf m = true := by
  cases m with
  | nil => simp [memoryWf]
  | cons cell rest =>
    obtain ⟨k', v'⟩ := cell
    simp [memoryWf]
    tauto

/-- Every cell of a list in form whose first cell lies above `k` lies above `k`. -/
theorem memoryWf_above {k : Nat} : ∀ {m : Memory}, memoryWf m = true → (∀ cell ∈ m.head?, k < cell.1) →
    ∀ cell ∈ m, k < cell.1
  | [], _, _ => by simp
  | (k', v') :: rest, hwf, hhead => by
    have hk : k < k' := hhead (k', v') (by simp)
    obtain ⟨-, -, hnext, hrest⟩ := (memoryWf_cons k' v' rest).mp hwf
    intro cell hcell
    rcases List.mem_cons.mp hcell with rfl | hin
    · exact hk
    · exact lt_trans hk (memoryWf_above hrest hnext cell hin)

/-- A cell below all listed ones is unlisted. -/
theorem readByte_below {k : Nat} : ∀ {m : Memory}, (∀ cell ∈ m, k < cell.1) → readByte m k = unlistedByte
  | [], _ => rfl
  | (k', v') :: rest, h => by
    have hk : k < k' := h (k', v') (by simp)
    simp only [readByte, if_neg (show k ≠ k' by omega)]
    exact readByte_below fun cell hcell => h cell (List.mem_cons_of_mem _ hcell)

theorem memoryWf_consCell {k : Nat} {m : Memory} (hk : k < cellCount) (v : BitVec 8) (hwf : memoryWf m = true)
    (hhead : ∀ cell ∈ m.head?, k < cell.1) : memoryWf (consCell k v m) = true := by
  unfold consCell
  split
  · exact hwf
  · next hv => exact (memoryWf_cons k v m).mpr ⟨hk, hv, hhead, hwf⟩

theorem head_consCell {k j : Nat} {v : BitVec 8} {m : Memory} (hj : j < k) (hhead : ∀ cell ∈ m.head?, j < cell.1) :
    ∀ cell ∈ (consCell k v m).head?, j < cell.1 := by
  unfold consCell
  split
  · exact hhead
  · simpa using hj

theorem head_writeByte {k j : Nat} {v : BitVec 8} {m : Memory} (hj : j < k) (hwf : memoryWf m = true)
    (hhead : ∀ cell ∈ m.head?, j < cell.1) : ∀ cell ∈ (writeByte m k v).head?, j < cell.1 := by
  cases m with
  | nil => exact head_consCell hj (by simp)
  | cons cell rest =>
    obtain ⟨k', v'⟩ := cell
    have hk' : j < k' := hhead (k', v') (by simp)
    unfold writeByte
    split
    · exact head_consCell hj hhead
    · split
      · obtain ⟨-, -, hnext, -⟩ := (memoryWf_cons k' v' rest).mp hwf
        exact head_consCell hj fun cell hcell => lt_trans hk' (hnext cell hcell)
      · simpa using hk'

/-- A byte write keeps the canonical form. -/
theorem memoryWf_writeByte {k : Nat} (hk : k < cellCount) (v : BitVec 8) :
    ∀ {m : Memory}, memoryWf m = true → memoryWf (writeByte m k v) = true
  | [], _ => memoryWf_consCell hk v rfl (by simp)
  | (k', v') :: rest, hwf => by
    obtain ⟨hk', hv', hnext, hrest⟩ := (memoryWf_cons k' v' rest).mp hwf
    unfold writeByte
    split
    · next hlt => exact memoryWf_consCell hk v hwf (by simpa using hlt)
    · split
      · next heq => exact memoryWf_consCell hk v hrest (by simpa [heq] using hnext)
      · next hge hne =>
        exact (memoryWf_cons _ _ _).mpr
          ⟨hk', hv', head_writeByte (by omega) hrest hnext, memoryWf_writeByte hk v hrest⟩

theorem readByte_consCell_self {k : Nat} {m : Memory} (v : BitVec 8) (h : readByte m k = unlistedByte) :
    readByte (consCell k v m) k = v := by
  unfold consCell
  split
  · next hv => rw [h, hv]
  · simp [readByte]

/-- A byte read after a write of that byte gives the byte written. -/
theorem readByte_writeByte_self (k : Nat) (v : BitVec 8) :
    ∀ {m : Memory}, memoryWf m = true → readByte (writeByte m k v) k = v
  | [], _ => readByte_consCell_self v rfl
  | (k', v') :: rest, hwf => by
    obtain ⟨-, -, hnext, hrest⟩ := (memoryWf_cons k' v' rest).mp hwf
    unfold writeByte
    split
    · next hlt =>
      exact readByte_consCell_self v (readByte_below (memoryWf_above hwf (by simpa using hlt)))
    · split
      · next heq =>
        subst heq
        exact readByte_consCell_self v (readByte_below (memoryWf_above hrest hnext))
      · next hne =>
        simp only [readByte, if_neg hne]
        exact readByte_writeByte_self k v hrest

/-! ## Words -/

theorem lowCell_lt (a : Word) : lowCell a < cellCount := by unfold lowCell cellCount; omega

theorem highCell_lt (a : Word) : highCell a < cellCount := by unfold highCell cellCount; omega

theorem memoryWf_writeCells {m : Memory} (a v : Word) (h : memoryWf m = true) : memoryWf (writeCells m a v) = true :=
  memoryWf_writeByte (highCell_lt a) _ (memoryWf_writeByte (lowCell_lt a) _ h)

/-- `MemWrite` keeps the canonical form. -/
theorem memoryWf_memWrite {map : List AddrRange} {m : Memory} (a v : Word) (h : memoryWf m = true) :
    memoryWf (memWrite map m a v) = true := by
  unfold memWrite
  split
  · exact memoryWf_writeCells a v h
  · exact h

/-- A word write leaves every byte but the word's two. -/
theorem readByte_writeCells_ne {a : Word} {j : Nat} (hl : j ≠ lowCell a) (hh : j ≠ highCell a) (m : Memory) (v : Word) :
    readByte (writeCells m a v) j = readByte m j := by
  unfold writeCells
  rw [readByte_writeByte_ne hh.symm, readByte_writeByte_ne hl.symm]

/-- `MemWrite` leaves every byte but the word's two. -/
theorem readByte_memWrite_ne {map : List AddrRange} {a : Word} {j : Nat} (hl : j ≠ lowCell a) (hh : j ≠ highCell a)
    (m : Memory) (v : Word) : readByte (memWrite map m a v) j = readByte m j := by
  unfold memWrite
  split
  · exact readByte_writeCells_ne hl hh m v
  · rfl

/-- A word read after a write of that word gives the word written. -/
theorem readCells_writeCells_self {m : Memory} (a v : Word) (h : memoryWf m = true) :
    readCells (writeCells m a v) a = v := by
  unfold readCells writeCells
  rw [readByte_writeByte_self _ _ (memoryWf_writeByte (lowCell_lt a) _ h),
    readByte_writeByte_ne (show highCell a ≠ lowCell a by unfold highCell lowCell; omega),
    readByte_writeByte_self _ _ h]
  ext i hi
  simp only [BitVec.getElem_append, BitVec.getElem_extractLsb']
  split
  · simp [BitVec.getLsbD_eq_getElem hi]
  · next h8 => simp [show 8 + (i - 8) = i by omega, BitVec.getLsbD_eq_getElem hi]

/-- A word read after a write of another word gives what it gave before. -/
theorem readCells_writeCells_ne {a b : Word} (hab : a ≠ b) (m : Memory) (v : Word) :
    readCells (writeCells m a v) b = readCells m b := by
  have hne : a.toNat ≠ b.toNat := fun h => hab (BitVec.eq_of_toNat_eq h)
  unfold readCells
  rw [readByte_writeCells_ne (by unfold highCell lowCell; omega) (by unfold highCell; omega),
    readByte_writeCells_ne (by unfold lowCell; omega) (by unfold lowCell highCell; omega)]

/-- `MemRead` of a mapped address after `MemWrite` to it gives the word written. -/
theorem memRead_memWrite_self {map : List AddrRange} {m : Memory} {a : Word} (hm : mapped map a = true) (v : Word)
    (h : memoryWf m = true) : memRead map (memWrite map m a v) a = v := by
  simp [memRead, memWrite, hm, readCells_writeCells_self a v h]

/-- `MemRead` of another address is not changed by `MemWrite`. -/
theorem memRead_memWrite_ne {map : List AddrRange} {m : Memory} {a b : Word} (hab : a ≠ b) (v : Word) :
    memRead map (memWrite map m a v) b = memRead map m b := by
  unfold memRead memWrite
  split
  · split
    · exact readCells_writeCells_ne hab m v
    · rfl
  · rfl

/-- Every cell listed after a byte write was listed before or is the cell written. -/
theorem mem_writeByte {k : Nat} {v : BitVec 8} {cell : Host.Cell} :
    ∀ {m : Memory}, cell ∈ writeByte m k v → cell = (k, v) ∨ cell ∈ m
  | [], h => by
    unfold writeByte consCell at h
    split at h <;> simp_all
  | (k', v') :: rest, h => by
    unfold writeByte consCell at h
    split at h
    · split at h <;> simp_all
    · split at h
      · split at h
        · simp_all
        · simp_all
          tauto
      · rcases List.mem_cons.mp h with rfl | h'
        · simp
        · rcases mem_writeByte h' with h'' | h'' <;> simp [h'']

end Sys2Proof.Machine
end

