-- ==== Sys2Proof/Laws/State.lean ====
section
/-! SUPPORT. Sys2Proof/Laws/State.lean: for each named update of State, what every field is after it. -/

namespace Sys2Proof.Machine

/-! ## afterFetch -/

@[simp] theorem afterFetch_ac (w : Word) (s : State) : (afterFetch w s).ac = s.ac := rfl
@[simp] theorem afterFetch_pc (w : Word) (s : State) : (afterFetch w s).pc = s.pc + 1 := rfl
@[simp] theorem afterFetch_ir (w : Word) (s : State) : (afterFetch w s).ir = w := rfl
@[simp] theorem afterFetch_mar (w : Word) (s : State) : (afterFetch w s).mar = s.pc := rfl
@[simp] theorem afterFetch_mdr (w : Word) (s : State) : (afterFetch w s).mdr = w := rfl
@[simp] theorem afterFetch_hi (w : Word) (s : State) : (afterFetch w s).hi = s.hi := rfl
@[simp] theorem afterFetch_lo (w : Word) (s : State) : (afterFetch w s).lo = s.lo := rfl
@[simp] theorem afterFetch_err (w : Word) (s : State) : (afterFetch w s).err = s.err := rfl
@[simp] theorem afterFetch_z (w : Word) (s : State) : (afterFetch w s).z = s.z := rfl
@[simp] theorem afterFetch_n (w : Word) (s : State) : (afterFetch w s).n = s.n := rfl
@[simp] theorem afterFetch_c (w : Word) (s : State) : (afterFetch w s).c = s.c := rfl
@[simp] theorem afterFetch_run (w : Word) (s : State) : (afterFetch w s).run = s.run := rfl
@[simp] theorem afterFetch_upc (w : Word) (s : State) : (afterFetch w s).upc = 3 := rfl
@[simp] theorem afterFetch_fsm (w : Word) (s : State) : (afterFetch w s).fsm = s.fsm := rfl
@[simp] theorem afterFetch_mdB (w : Word) (s : State) : (afterFetch w s).mdB = s.mdB := rfl
@[simp] theorem afterFetch_mdCnt (w : Word) (s : State) : (afterFetch w s).mdCnt = s.mdCnt := rfl
@[simp] theorem afterFetch_mdOp (w : Word) (s : State) : (afterFetch w s).mdOp = s.mdOp := rfl
@[simp] theorem afterFetch_cycleCount (w : Word) (s : State) : (afterFetch w s).cycleCount = s.cycleCount + fetchClocks := rfl
@[simp] theorem afterFetch_instrCount (w : Word) (s : State) : (afterFetch w s).instrCount = s.instrCount := rfl
@[simp] theorem afterFetch_bus (w : Word) (s : State) : (afterFetch w s).bus = s.bus := rfl
@[simp] theorem afterFetch_mem (w : Word) (s : State) : (afterFetch w s).mem = s.mem := rfl
@[simp] theorem afterFetch_map (w : Word) (s : State) : (afterFetch w s).map = s.map := rfl
@[simp] theorem afterFetch_aluPort (w : Word) (s : State) : (afterFetch w s).aluPort = s.aluPort := rfl

/-! ## endInstr -/

@[simp] theorem endInstr_ac (k : Nat) (s : State) : (endInstr k s).ac = s.ac := rfl
@[simp] theorem endInstr_pc (k : Nat) (s : State) : (endInstr k s).pc = s.pc := rfl
@[simp] theorem endInstr_ir (k : Nat) (s : State) : (endInstr k s).ir = s.ir := rfl
@[simp] theorem endInstr_mar (k : Nat) (s : State) : (endInstr k s).mar = s.mar := rfl
@[simp] theorem endInstr_mdr (k : Nat) (s : State) : (endInstr k s).mdr = s.mdr := rfl
@[simp] theorem endInstr_hi (k : Nat) (s : State) : (endInstr k s).hi = s.hi := rfl
@[simp] theorem endInstr_lo (k : Nat) (s : State) : (endInstr k s).lo = s.lo := rfl
@[simp] theorem endInstr_err (k : Nat) (s : State) : (endInstr k s).err = s.err := rfl
@[simp] theorem endInstr_z (k : Nat) (s : State) : (endInstr k s).z = s.z := rfl
@[simp] theorem endInstr_n (k : Nat) (s : State) : (endInstr k s).n = s.n := rfl
@[simp] theorem endInstr_c (k : Nat) (s : State) : (endInstr k s).c = s.c := rfl
@[simp] theorem endInstr_run (k : Nat) (s : State) : (endInstr k s).run = s.run := rfl
@[simp] theorem endInstr_upc (k : Nat) (s : State) : (endInstr k s).upc = 0 := rfl
@[simp] theorem endInstr_fsm (k : Nat) (s : State) : (endInstr k s).fsm = s.fsm := rfl
@[simp] theorem endInstr_mdB (k : Nat) (s : State) : (endInstr k s).mdB = s.mdB := rfl
@[simp] theorem endInstr_mdCnt (k : Nat) (s : State) : (endInstr k s).mdCnt = s.mdCnt := rfl
@[simp] theorem endInstr_mdOp (k : Nat) (s : State) : (endInstr k s).mdOp = s.mdOp := rfl
@[simp] theorem endInstr_cycleCount (k : Nat) (s : State) : (endInstr k s).cycleCount = s.cycleCount + k := rfl
@[simp] theorem endInstr_instrCount (k : Nat) (s : State) : (endInstr k s).instrCount = s.instrCount + 1 := rfl
@[simp] theorem endInstr_bus (k : Nat) (s : State) : (endInstr k s).bus = s.bus := rfl
@[simp] theorem endInstr_mem (k : Nat) (s : State) : (endInstr k s).mem = s.mem := rfl
@[simp] theorem endInstr_map (k : Nat) (s : State) : (endInstr k s).map = s.map := rfl
@[simp] theorem endInstr_aluPort (k : Nat) (s : State) : (endInstr k s).aluPort = s.aluPort := rfl

/-! ## setOperand -/

@[simp] theorem setOperand_ac (a m : Word) (s : State) : (setOperand a m s).ac = s.ac := rfl
@[simp] theorem setOperand_pc (a m : Word) (s : State) : (setOperand a m s).pc = s.pc := rfl
@[simp] theorem setOperand_ir (a m : Word) (s : State) : (setOperand a m s).ir = s.ir := rfl
@[simp] theorem setOperand_mar (a m : Word) (s : State) : (setOperand a m s).mar = a := rfl
@[simp] theorem setOperand_mdr (a m : Word) (s : State) : (setOperand a m s).mdr = m := rfl
@[simp] theorem setOperand_hi (a m : Word) (s : State) : (setOperand a m s).hi = s.hi := rfl
@[simp] theorem setOperand_lo (a m : Word) (s : State) : (setOperand a m s).lo = s.lo := rfl
@[simp] theorem setOperand_err (a m : Word) (s : State) : (setOperand a m s).err = s.err := rfl
@[simp] theorem setOperand_z (a m : Word) (s : State) : (setOperand a m s).z = s.z := rfl
@[simp] theorem setOperand_n (a m : Word) (s : State) : (setOperand a m s).n = s.n := rfl
@[simp] theorem setOperand_c (a m : Word) (s : State) : (setOperand a m s).c = s.c := rfl
@[simp] theorem setOperand_run (a m : Word) (s : State) : (setOperand a m s).run = s.run := rfl
@[simp] theorem setOperand_upc (a m : Word) (s : State) : (setOperand a m s).upc = s.upc := rfl
@[simp] theorem setOperand_fsm (a m : Word) (s : State) : (setOperand a m s).fsm = s.fsm := rfl
@[simp] theorem setOperand_mdB (a m : Word) (s : State) : (setOperand a m s).mdB = s.mdB := rfl
@[simp] theorem setOperand_mdCnt (a m : Word) (s : State) : (setOperand a m s).mdCnt = s.mdCnt := rfl
@[simp] theorem setOperand_mdOp (a m : Word) (s : State) : (setOperand a m s).mdOp = s.mdOp := rfl
@[simp] theorem setOperand_cycleCount (a m : Word) (s : State) : (setOperand a m s).cycleCount = s.cycleCount := rfl
@[simp] theorem setOperand_instrCount (a m : Word) (s : State) : (setOperand a m s).instrCount = s.instrCount := rfl
@[simp] theorem setOperand_bus (a m : Word) (s : State) : (setOperand a m s).bus = s.bus := rfl
@[simp] theorem setOperand_mem (a m : Word) (s : State) : (setOperand a m s).mem = s.mem := rfl
@[simp] theorem setOperand_map (a m : Word) (s : State) : (setOperand a m s).map = s.map := rfl
@[simp] theorem setOperand_aluPort (a m : Word) (s : State) : (setOperand a m s).aluPort = s.aluPort := rfl

/-! ## loadAlu -/

@[simp] theorem loadAlu_ac (r : AluOut) (s : State) : (loadAlu r s).ac = r.result := rfl
@[simp] theorem loadAlu_pc (r : AluOut) (s : State) : (loadAlu r s).pc = s.pc := rfl
@[simp] theorem loadAlu_ir (r : AluOut) (s : State) : (loadAlu r s).ir = s.ir := rfl
@[simp] theorem loadAlu_mar (r : AluOut) (s : State) : (loadAlu r s).mar = s.mar := rfl
@[simp] theorem loadAlu_mdr (r : AluOut) (s : State) : (loadAlu r s).mdr = s.mdr := rfl
@[simp] theorem loadAlu_hi (r : AluOut) (s : State) : (loadAlu r s).hi = s.hi := rfl
@[simp] theorem loadAlu_lo (r : AluOut) (s : State) : (loadAlu r s).lo = s.lo := rfl
@[simp] theorem loadAlu_err (r : AluOut) (s : State) : (loadAlu r s).err = s.err := rfl
@[simp] theorem loadAlu_z (r : AluOut) (s : State) : (loadAlu r s).z = r.z := rfl
@[simp] theorem loadAlu_n (r : AluOut) (s : State) : (loadAlu r s).n = r.n := rfl
@[simp] theorem loadAlu_c (r : AluOut) (s : State) : (loadAlu r s).c = r.c := rfl
@[simp] theorem loadAlu_run (r : AluOut) (s : State) : (loadAlu r s).run = s.run := rfl
@[simp] theorem loadAlu_upc (r : AluOut) (s : State) : (loadAlu r s).upc = s.upc := rfl
@[simp] theorem loadAlu_fsm (r : AluOut) (s : State) : (loadAlu r s).fsm = s.fsm := rfl
@[simp] theorem loadAlu_mdB (r : AluOut) (s : State) : (loadAlu r s).mdB = s.mdB := rfl
@[simp] theorem loadAlu_mdCnt (r : AluOut) (s : State) : (loadAlu r s).mdCnt = s.mdCnt := rfl
@[simp] theorem loadAlu_mdOp (r : AluOut) (s : State) : (loadAlu r s).mdOp = s.mdOp := rfl
@[simp] theorem loadAlu_cycleCount (r : AluOut) (s : State) : (loadAlu r s).cycleCount = s.cycleCount := rfl
@[simp] theorem loadAlu_instrCount (r : AluOut) (s : State) : (loadAlu r s).instrCount = s.instrCount := rfl
@[simp] theorem loadAlu_bus (r : AluOut) (s : State) : (loadAlu r s).bus = s.bus := rfl
@[simp] theorem loadAlu_mem (r : AluOut) (s : State) : (loadAlu r s).mem = s.mem := rfl
@[simp] theorem loadAlu_map (r : AluOut) (s : State) : (loadAlu r s).map = s.map := rfl
@[simp] theorem loadAlu_aluPort (r : AluOut) (s : State) : (loadAlu r s).aluPort = s.aluPort := rfl

/-! ## recordDivZero -/

@[simp] theorem recordDivZero_ac (s : State) : (recordDivZero s).ac = s.ac := rfl
@[simp] theorem recordDivZero_pc (s : State) : (recordDivZero s).pc = s.pc := rfl
@[simp] theorem recordDivZero_ir (s : State) : (recordDivZero s).ir = s.ir := rfl
@[simp] theorem recordDivZero_mar (s : State) : (recordDivZero s).mar = s.mar := rfl
@[simp] theorem recordDivZero_mdr (s : State) : (recordDivZero s).mdr = s.mdr := rfl
@[simp] theorem recordDivZero_hi (s : State) : (recordDivZero s).hi = s.hi := rfl
@[simp] theorem recordDivZero_lo (s : State) : (recordDivZero s).lo = s.lo := rfl
@[simp] theorem recordDivZero_err (s : State) : (recordDivZero s).err = s.err ||| 0x0001#16 := rfl
@[simp] theorem recordDivZero_z (s : State) : (recordDivZero s).z = s.z := rfl
@[simp] theorem recordDivZero_n (s : State) : (recordDivZero s).n = s.n := rfl
@[simp] theorem recordDivZero_c (s : State) : (recordDivZero s).c = s.c := rfl
@[simp] theorem recordDivZero_run (s : State) : (recordDivZero s).run = s.run := rfl
@[simp] theorem recordDivZero_upc (s : State) : (recordDivZero s).upc = s.upc := rfl
@[simp] theorem recordDivZero_fsm (s : State) : (recordDivZero s).fsm = s.fsm := rfl
@[simp] theorem recordDivZero_mdB (s : State) : (recordDivZero s).mdB = s.mdB := rfl
@[simp] theorem recordDivZero_mdCnt (s : State) : (recordDivZero s).mdCnt = s.mdCnt := rfl
@[simp] theorem recordDivZero_mdOp (s : State) : (recordDivZero s).mdOp = s.mdOp := rfl
@[simp] theorem recordDivZero_cycleCount (s : State) : (recordDivZero s).cycleCount = s.cycleCount := rfl
@[simp] theorem recordDivZero_instrCount (s : State) : (recordDivZero s).instrCount = s.instrCount := rfl
@[simp] theorem recordDivZero_bus (s : State) : (recordDivZero s).bus = s.bus := rfl
@[simp] theorem recordDivZero_mem (s : State) : (recordDivZero s).mem = s.mem := rfl
@[simp] theorem recordDivZero_map (s : State) : (recordDivZero s).map = s.map := rfl
@[simp] theorem recordDivZero_aluPort (s : State) : (recordDivZero s).aluPort = s.aluPort := rfl

/-! ## clearAluRequest -/

@[simp] theorem clearAluRequest_ac (s : State) : (clearAluRequest s).ac = s.ac := rfl
@[simp] theorem clearAluRequest_pc (s : State) : (clearAluRequest s).pc = s.pc := rfl
@[simp] theorem clearAluRequest_ir (s : State) : (clearAluRequest s).ir = s.ir := rfl
@[simp] theorem clearAluRequest_mar (s : State) : (clearAluRequest s).mar = s.mar := rfl
@[simp] theorem clearAluRequest_mdr (s : State) : (clearAluRequest s).mdr = s.mdr := rfl
@[simp] theorem clearAluRequest_hi (s : State) : (clearAluRequest s).hi = s.hi := rfl
@[simp] theorem clearAluRequest_lo (s : State) : (clearAluRequest s).lo = s.lo := rfl
@[simp] theorem clearAluRequest_err (s : State) : (clearAluRequest s).err = s.err := rfl
@[simp] theorem clearAluRequest_z (s : State) : (clearAluRequest s).z = s.z := rfl
@[simp] theorem clearAluRequest_n (s : State) : (clearAluRequest s).n = s.n := rfl
@[simp] theorem clearAluRequest_c (s : State) : (clearAluRequest s).c = s.c := rfl
@[simp] theorem clearAluRequest_run (s : State) : (clearAluRequest s).run = s.run := rfl
@[simp] theorem clearAluRequest_upc (s : State) : (clearAluRequest s).upc = s.upc := rfl
@[simp] theorem clearAluRequest_fsm (s : State) : (clearAluRequest s).fsm = s.fsm := rfl
@[simp] theorem clearAluRequest_mdB (s : State) : (clearAluRequest s).mdB = s.mdB := rfl
@[simp] theorem clearAluRequest_mdCnt (s : State) : (clearAluRequest s).mdCnt = s.mdCnt := rfl
@[simp] theorem clearAluRequest_mdOp (s : State) : (clearAluRequest s).mdOp = s.mdOp := rfl
@[simp] theorem clearAluRequest_cycleCount (s : State) : (clearAluRequest s).cycleCount = s.cycleCount := rfl
@[simp] theorem clearAluRequest_instrCount (s : State) : (clearAluRequest s).instrCount = s.instrCount := rfl
@[simp] theorem clearAluRequest_bus (s : State) : (clearAluRequest s).bus = s.bus := rfl
@[simp] theorem clearAluRequest_mem (s : State) : (clearAluRequest s).mem = s.mem := rfl
@[simp] theorem clearAluRequest_map (s : State) : (clearAluRequest s).map = s.map := rfl
@[simp] theorem clearAluRequest_aluPort (s : State) : (clearAluRequest s).aluPort = { s.aluPort with request := none } := rfl

/-! ## setMdResult -/

@[simp] theorem setMdResult_ac (d : Signal) (h l m : Word) (s : State) : (setMdResult d h l m s).ac = s.ac := rfl
@[simp] theorem setMdResult_pc (d : Signal) (h l m : Word) (s : State) : (setMdResult d h l m s).pc = s.pc := rfl
@[simp] theorem setMdResult_ir (d : Signal) (h l m : Word) (s : State) : (setMdResult d h l m s).ir = s.ir := rfl
@[simp] theorem setMdResult_mar (d : Signal) (h l m : Word) (s : State) : (setMdResult d h l m s).mar = s.mar := rfl
@[simp] theorem setMdResult_mdr (d : Signal) (h l m : Word) (s : State) : (setMdResult d h l m s).mdr = s.mdr := rfl
@[simp] theorem setMdResult_hi (d : Signal) (h l m : Word) (s : State) : (setMdResult d h l m s).hi = h := rfl
@[simp] theorem setMdResult_lo (d : Signal) (h l m : Word) (s : State) : (setMdResult d h l m s).lo = l := rfl
@[simp] theorem setMdResult_err (d : Signal) (h l m : Word) (s : State) : (setMdResult d h l m s).err = s.err := rfl
@[simp] theorem setMdResult_z (d : Signal) (h l m : Word) (s : State) : (setMdResult d h l m s).z = mdZero d h l := rfl
@[simp] theorem setMdResult_n (d : Signal) (h l m : Word) (s : State) : (setMdResult d h l m s).n = mdNegative d h l := rfl
@[simp] theorem setMdResult_c (d : Signal) (h l m : Word) (s : State) : (setMdResult d h l m s).c = s.c := rfl
@[simp] theorem setMdResult_run (d : Signal) (h l m : Word) (s : State) : (setMdResult d h l m s).run = s.run := rfl
@[simp] theorem setMdResult_upc (d : Signal) (h l m : Word) (s : State) : (setMdResult d h l m s).upc = s.upc := rfl
@[simp] theorem setMdResult_fsm (d : Signal) (h l m : Word) (s : State) : (setMdResult d h l m s).fsm = .idle := rfl
@[simp] theorem setMdResult_mdB (d : Signal) (h l m : Word) (s : State) : (setMdResult d h l m s).mdB = m := rfl
@[simp] theorem setMdResult_mdCnt (d : Signal) (h l m : Word) (s : State) : (setMdResult d h l m s).mdCnt = 0 := rfl
@[simp] theorem setMdResult_mdOp (d : Signal) (h l m : Word) (s : State) : (setMdResult d h l m s).mdOp = d := rfl
@[simp] theorem setMdResult_cycleCount (d : Signal) (h l m : Word) (s : State) : (setMdResult d h l m s).cycleCount = s.cycleCount := rfl
@[simp] theorem setMdResult_instrCount (d : Signal) (h l m : Word) (s : State) : (setMdResult d h l m s).instrCount = s.instrCount := rfl
@[simp] theorem setMdResult_bus (d : Signal) (h l m : Word) (s : State) : (setMdResult d h l m s).bus = s.bus := rfl
@[simp] theorem setMdResult_mem (d : Signal) (h l m : Word) (s : State) : (setMdResult d h l m s).mem = s.mem := rfl
@[simp] theorem setMdResult_map (d : Signal) (h l m : Word) (s : State) : (setMdResult d h l m s).map = s.map := rfl
@[simp] theorem setMdResult_aluPort (d : Signal) (h l m : Word) (s : State) : (setMdResult d h l m s).aluPort = s.aluPort := rfl

/-! ## presentAluCtrl -/

@[simp] theorem presentAluCtrl_ac (op : AluOp) (fn : AluFn) (s : State) : (presentAluCtrl op fn s).ac = s.ac := rfl
@[simp] theorem presentAluCtrl_pc (op : AluOp) (fn : AluFn) (s : State) : (presentAluCtrl op fn s).pc = s.pc := rfl
@[simp] theorem presentAluCtrl_ir (op : AluOp) (fn : AluFn) (s : State) : (presentAluCtrl op fn s).ir = s.ir := rfl
@[simp] theorem presentAluCtrl_mar (op : AluOp) (fn : AluFn) (s : State) : (presentAluCtrl op fn s).mar = s.mar := rfl
@[simp] theorem presentAluCtrl_mdr (op : AluOp) (fn : AluFn) (s : State) : (presentAluCtrl op fn s).mdr = s.mdr := rfl
@[simp] theorem presentAluCtrl_hi (op : AluOp) (fn : AluFn) (s : State) : (presentAluCtrl op fn s).hi = s.hi := rfl
@[simp] theorem presentAluCtrl_lo (op : AluOp) (fn : AluFn) (s : State) : (presentAluCtrl op fn s).lo = s.lo := rfl
@[simp] theorem presentAluCtrl_err (op : AluOp) (fn : AluFn) (s : State) : (presentAluCtrl op fn s).err = s.err := rfl
@[simp] theorem presentAluCtrl_z (op : AluOp) (fn : AluFn) (s : State) : (presentAluCtrl op fn s).z = s.z := rfl
@[simp] theorem presentAluCtrl_n (op : AluOp) (fn : AluFn) (s : State) : (presentAluCtrl op fn s).n = s.n := rfl
@[simp] theorem presentAluCtrl_c (op : AluOp) (fn : AluFn) (s : State) : (presentAluCtrl op fn s).c = s.c := rfl
@[simp] theorem presentAluCtrl_run (op : AluOp) (fn : AluFn) (s : State) : (presentAluCtrl op fn s).run = s.run := rfl
@[simp] theorem presentAluCtrl_upc (op : AluOp) (fn : AluFn) (s : State) : (presentAluCtrl op fn s).upc = s.upc := rfl
@[simp] theorem presentAluCtrl_fsm (op : AluOp) (fn : AluFn) (s : State) : (presentAluCtrl op fn s).fsm = s.fsm := rfl
@[simp] theorem presentAluCtrl_mdB (op : AluOp) (fn : AluFn) (s : State) : (presentAluCtrl op fn s).mdB = s.mdB := rfl
@[simp] theorem presentAluCtrl_mdCnt (op : AluOp) (fn : AluFn) (s : State) : (presentAluCtrl op fn s).mdCnt = s.mdCnt := rfl
@[simp] theorem presentAluCtrl_mdOp (op : AluOp) (fn : AluFn) (s : State) : (presentAluCtrl op fn s).mdOp = s.mdOp := rfl
@[simp] theorem presentAluCtrl_cycleCount (op : AluOp) (fn : AluFn) (s : State) : (presentAluCtrl op fn s).cycleCount = s.cycleCount := rfl
@[simp] theorem presentAluCtrl_instrCount (op : AluOp) (fn : AluFn) (s : State) : (presentAluCtrl op fn s).instrCount = s.instrCount := rfl
@[simp] theorem presentAluCtrl_bus (op : AluOp) (fn : AluFn) (s : State) : (presentAluCtrl op fn s).bus = s.bus := rfl
@[simp] theorem presentAluCtrl_mem (op : AluOp) (fn : AluFn) (s : State) : (presentAluCtrl op fn s).mem = s.mem := rfl
@[simp] theorem presentAluCtrl_map (op : AluOp) (fn : AluFn) (s : State) : (presentAluCtrl op fn s).map = s.map := rfl

@[simp] theorem presentAluCtrl_aluPort (op : AluOp) (fn : AluFn) (s : State) :
    (presentAluCtrl op fn s).aluPort = { s.aluPort with ctrl := aluCtrlOf op fn } := rfl

@[simp] theorem aluOpField_aluCtrlOf (op : AluOp) (fn : AluFn) : aluOpField (aluCtrlOf op fn) = op := by
  revert op fn; decide

@[simp] theorem aluFnField_aluCtrlOf (op : AluOp) (fn : AluFn) : aluFnField (aluCtrlOf op fn) = fn := by
  revert op fn; decide

/-- The outputs at the ports after a code was presented: the ALU of the operands there under that code. -/
@[simp] theorem aluPortOut_presentAluCtrl (op : AluOp) (fn : AluFn) (s : State) :
    aluPortOut (presentAluCtrl op fn s) = alu s.aluPort.a s.aluPort.b op fn := by
  simp [aluPortOut]

/-- An ALU instruction's state is its ALU load followed by the end of the cycle. -/
theorem aluInstr_eq (op : AluOp) (fn : AluFn) (b : Word) (k : Nat) (s : State) :
    aluInstr op fn b k s = endInstr k (loadAlu (alu s.ac b op fn) s) := rfl

end Sys2Proof.Machine
end

