-- ==== Sys2Proof/Laws/Bus.lean ====
section
/-! SUPPORT. Sys2Proof/Laws/Bus.lean: what a bus access, a fetch and a memory operand can do, said once. -/

namespace Sys2Proof.Machine

/-- Acquire and release by one master on a free bus leave it free. -/
theorem busRelease_busAcquire (id : BusMaster) : busRelease id (busAcquire id .free).1 = .free := by
  simp [busAcquire, busRelease]

/-- A read on a free bus hands on the word and leaves the state. -/
theorem busRead_free {s : State} (h : s.bus = .free) (a : Word) (k : Word → State → Answer) :
    busRead s a k = k (memRead s.map s.mem a) s := by
  obtain ⟨⟩ := s
  simp only at h
  subst h
  simp [busRead, busAcquire, busRelease]

/-- A read on a held bus is refused. -/
theorem busRead_held {s : State} (h : s.bus ≠ .free) (a : Word) (k : Word → State → Answer) :
    busRead s a k = .refused .busDenied := by
  unfold busRead busAcquire
  split
  · next heq => split at heq <;> simp_all
  · rfl

/-- If a read ends in a next state, the bus was free and the continuation ended in it. -/
theorem busRead_next {s t : State} {a : Word} {k : Word → State → Answer} (h : busRead s a k = .next t) :
    s.bus = .free ∧ k (memRead s.map s.mem a) s = .next t := by
  by_cases hb : s.bus = .free
  · exact ⟨hb, busRead_free hb a k ▸ h⟩
  · rw [busRead_held hb] at h
    cases h

/-- A write on a free bus writes memory and leaves the rest of the state. -/
theorem busWrite_free {s : State} (h : s.bus = .free) (a v : Word) (k : State → Answer) :
    busWrite s a v k = k { s with mem := memWrite s.map s.mem a v } := by
  obtain ⟨⟩ := s
  simp only at h
  subst h
  simp [busWrite, busAcquire, busRelease]

/-- A write on a held bus is refused. -/
theorem busWrite_held {s : State} (h : s.bus ≠ .free) (a v : Word) (k : State → Answer) :
    busWrite s a v k = .refused .busDenied := by
  unfold busWrite busAcquire
  split
  · next heq => split at heq <;> simp_all
  · rfl

/-- If a write ends in a next state, the bus was free and the continuation ended in it. -/
theorem busWrite_next {s t : State} {a v : Word} {k : State → Answer} (h : busWrite s a v k = .next t) :
    s.bus = .free ∧ k { s with mem := memWrite s.map s.mem a v } = .next t := by
  by_cases hb : s.bus = .free
  · exact ⟨hb, busWrite_free hb a v k ▸ h⟩
  · rw [busWrite_held hb] at h
    cases h

/-- FETCH on a free bus. -/
theorem fetch_free {s : State} (h : s.bus = .free) (k : Word → State → Answer) :
    fetch s k = k (memRead s.map s.mem s.pc) (afterFetch (memRead s.map s.mem s.pc) s) :=
  busRead_free h _ _

/-- If FETCH ends in a next state, the bus was free and the continuation ended in it. -/
theorem fetch_next {s t : State} {k : Word → State → Answer} (h : fetch s k = .next t) :
    s.bus = .free ∧ k (memRead s.map s.mem s.pc) (afterFetch (memRead s.map s.mem s.pc) s) = .next t :=
  busRead_next h

/-- A memory operand on a free bus. -/
theorem withMemOperand_free {s : State} (h : s.bus = .free) (a : Operand) (k : Word → State → Answer) :
    withMemOperand a s k =
      k (memRead s.map s.mem (effectiveAddr a)) (setOperand (effectiveAddr a) (memRead s.map s.mem (effectiveAddr a)) s) :=
  busRead_free h _ _

/-- If a memory operand ends in a next state, the bus was free and the continuation ended in it. -/
theorem withMemOperand_next {s t : State} {a : Operand} {k : Word → State → Answer}
    (h : withMemOperand a s k = .next t) :
    s.bus = .free ∧
      k (memRead s.map s.mem (effectiveAddr a))
        (setOperand (effectiveAddr a) (memRead s.map s.mem (effectiveAddr a)) s) = .next t :=
  busRead_next h

/-- If an ALU instruction on a memory operand ends in a next state, the bus was free and this is the state. -/
theorem execAluMemory_next {op : AluOp} {fn : AluFn} {a : Operand} {s t : State}
    (h : execAluMemory op fn a s = .next t) :
    s.bus = .free ∧
      t = aluInstr op fn (memRead s.map s.mem (effectiveAddr a)) 3
        (setOperand (effectiveAddr a) (memRead s.map s.mem (effectiveAddr a)) s) := by
  obtain ⟨hb, hk⟩ := withMemOperand_next h
  exact ⟨hb, (Host.Outcome.next.inj hk).symm⟩

end Sys2Proof.Machine
end

