-- ==== Sys2Proof/Laws/Clock.lean ====
section
/-! SUPPORT. Sys2Proof/Laws/Clock.lean: the unfolding laws of the clock, of runs of clocks and of the step. -/

namespace Sys2Proof.Machine

/-- The state after the clock's write. -/
theorem clockWrite_free {s : State} (hbus : s.bus = .free) (k : State → Answer) :
    clockWrite s k = k (if (controlLines s).memWr then { s with mem := memWrite s.map s.mem s.mar s.mdr } else s) := by
  unfold clockWrite
  split
  · exact busWrite_free hbus _ _ k
  · rfl

/-- The word the clock's read hands on. -/
theorem clockRead_free {s : State} (hbus : s.bus = .free) (k : Word → State → Answer) :
    clockRead s k = k (if (controlLines s).memRd then memRead s.map s.mem s.mar else s.mdr) s := by
  unfold clockRead
  split
  · exact busRead_free hbus _ k
  · rfl

/-- A running clock on a free bus: the write, then the read, then the edge. -/
theorem clock_free {s : State} (hrun : s.run = true) (hbus : s.bus = .free) :
    clock s =
      (let t := if (controlLines s).memWr then { s with mem := memWrite s.map s.mem s.mar s.mdr } else s
       .next (clockEdge (if (controlLines t).memRd then memRead t.map t.mem t.mar else t.mdr) t)) := by
  unfold clock
  rw [if_pos hrun, clockWrite_free hbus]
  split
  · exact clockRead_free (s := { s with mem := memWrite s.map s.mem s.mar s.mdr }) hbus _
  · exact clockRead_free hbus _

/-- One more clock of a run to the end of the instruction. -/
theorem clocksToEnd_succ_next {fuel : Nat} {s t : State} (h : clock s = .next t) :
    clocksToEnd (fuel + 1) s = if endsInstr s then .next t else clocksToEnd fuel t := by
  simp [clocksToEnd, h]

/-- One more clock of a run of clocks. -/
theorem clocks_succ_next {n : Nat} {s t : State} (h : clock s = .next t) : clocks (n + 1) s = clocks n t := by
  simp [clocks, h]

/-- The step with nothing asked at the ALU's ports is an instruction cycle. -/
theorem step_no_request {s : State} (h : s.aluPort.request = none) : step s = instructionCycle s := by
  simp [step, machineStep, h]

/-- The step with a control code asked at the ALU's ports. -/
theorem step_request {s : State} {ctrl : AluCtrl} (h : s.aluPort.request = some ctrl) :
    step s = exec (decodeAluCtrl ctrl) (clearAluRequest s) := by
  simp [step, machineStep, h]

/-- What a step that answers a next state can have been: an ALU control presented, no change while halted, an instruction's
meaning after its fetch, or the clocks left of an instruction cycle. -/
theorem step_cases {s t : State} (h : step s = .next t) :
    (∃ ctrl, s.aluPort.request = some ctrl ∧ exec (decodeAluCtrl ctrl) (clearAluRequest s) = .next t) ∨
    (s.aluPort.request = none ∧ s.run = false ∧ t = s) ∨
    (s.aluPort.request = none ∧ s.run = true ∧ betweenInstructions s = true ∧ s.bus = .free ∧
      exec (decodeWord (memRead s.map s.mem s.pc)) (afterFetch (memRead s.map s.mem s.pc) s) = .next t) ∨
    (s.aluPort.request = none ∧ s.run = true ∧ betweenInstructions s = false ∧ clocksToEnd cycleBound s = .next t) := by
  cases hreq : s.aluPort.request with
  | some ctrl => exact .inl ⟨ctrl, rfl, step_request hreq ▸ h⟩
  | none =>
    rw [step_no_request hreq, instructionCycle] at h
    refine .inr ?_
    by_cases hrun : s.run = true
    · rw [if_pos hrun] at h
      by_cases hb : betweenInstructions s = true
      · rw [if_pos hb] at h
        exact .inr (.inl ⟨rfl, hrun, hb, fetch_next h⟩)
      · rw [if_neg hb] at h
        exact .inr (.inr ⟨rfl, hrun, by simpa using hb, h⟩)
    · rw [if_neg hrun] at h
      exact .inl ⟨rfl, by simpa using hrun, (Host.Outcome.next.inj h).symm⟩

end Sys2Proof.Machine
end

