-- ==== Sys2Proof/Laws/Lanes.lean ====
section
/-! SUPPORT. Sys2Proof/Laws/Lanes.lean: a word built lane by lane has those lanes. -/

namespace Sys2Proof.Machine

theorem lanesNat_lt (f : Nat → Signal) (n : Nat) : lanesNat f n < 2 ^ n := by
  induction n with
  | zero => simp [lanesNat]
  | succ k ih => rw [lanesNat, pow_succ]; split <;> omega

theorem testBit_lanesNat (f : Nat → Signal) (n i : Nat) : (lanesNat f n).testBit i = (decide (i < n) && f i) := by
  induction n with
  | zero => simp [lanesNat]
  | succ k ih =>
    have hlt := lanesNat_lt f k
    rcases Nat.lt_trichotomy i k with h | h | h
    · rw [lanesNat]
      split
      · rw [Nat.add_comm, Nat.testBit_two_pow_add_gt h, ih]
        simp [h, Nat.lt_succ_of_lt h]
      · simpa [h, Nat.lt_succ_of_lt h] using ih
    · subst h
      rw [lanesNat]
      split
      · next hf => rw [Nat.add_comm, Nat.testBit_two_pow_add_eq, Nat.testBit_lt_two_pow hlt]; simp [hf]
      · next hf => simp [Nat.testBit_lt_two_pow hlt, hf]
    · have hi : ¬ i < k + 1 := by omega
      rw [Nat.testBit_lt_two_pow (lt_of_lt_of_le (lanesNat_lt f (k + 1)) (Nat.pow_le_pow_right (by omega) (by omega)))]
      simp [hi]

/-- Lane `i` of a word built from lanes. -/
@[simp] theorem getLsbD_wordOfLanes (f : Nat → Signal) (i : Nat) :
    (wordOfLanes f).getLsbD i = (decide (i < 16) && f i) := by
  unfold wordOfLanes
  rw [BitVec.getLsbD_ofNat, testBit_lanesNat]
  by_cases h : i < 16 <;> simp [h]

/-- Two words with the same sixteen lanes are equal. -/
theorem word_ext {x y : Word} (h : ∀ i < 16, x.getLsbD i = y.getLsbD i) : x = y :=
  BitVec.eq_of_getLsbD_eq h

end Sys2Proof.Machine
end

