-- ==== Sys2Proof/Laws/PerInstr.lean ====
section
/-! SUPPORT. Sys2Proof/Laws/PerInstr.lean: the statements made per instruction. -/

namespace Sys2Proof.Laws

/-- The bits of an encoding as the opcode table's mask and match read them. -/
theorem encodingBits_wordOf (op : Opcode) (a : Operand) :
    encodingBits (.word (wordOf op a)) &&& 0xF000#16 = op.setWidth 16 <<< 12 := by
  apply BitVec.eq_of_getLsbD_eq
  intro i hi
  have h : i < 16 := hi
  simp only [encodingBits, wordOf, BitVec.getLsbD_and, BitVec.getLsbD_append, BitVec.getLsbD_shiftLeft,
    BitVec.getLsbD_setWidth, h]
  interval_cases i <;> simp

/-- An instruction's encoding has the fixed bits of its row of the opcode table (30_encoding.md R94, 42_alu.md R201). -/
def MatchesTable.Statement (i : Instr) : Prop :=
  i.wellFormed = true → encodingBits (encode i) &&& (tableRow i).mask = (tableRow i).pattern

theorem MatchesTable.nop (a : Operand) : MatchesTable.Statement (.nop a) := fun _ => encodingBits_wordOf 0x0 a
theorem MatchesTable.load (a : Operand) : MatchesTable.Statement (.load a) := fun _ => encodingBits_wordOf 0x1 a
theorem MatchesTable.store (a : Operand) : MatchesTable.Statement (.store a) := fun _ => encodingBits_wordOf 0x2 a
theorem MatchesTable.add (a : Operand) : MatchesTable.Statement (.add a) := fun _ => encodingBits_wordOf 0x3 a
theorem MatchesTable.sub (a : Operand) : MatchesTable.Statement (.sub a) := fun _ => encodingBits_wordOf 0x4 a
theorem MatchesTable.mult (a : Operand) : MatchesTable.Statement (.mult a) := fun _ => encodingBits_wordOf 0x5 a
theorem MatchesTable.div (a : Operand) : MatchesTable.Statement (.div a) := fun _ => encodingBits_wordOf 0x6 a
theorem MatchesTable.jump (a : Operand) : MatchesTable.Statement (.jump a) := fun _ => encodingBits_wordOf 0x7 a
theorem MatchesTable.jz (a : Operand) : MatchesTable.Statement (.jz a) := fun _ => encodingBits_wordOf 0x8 a
theorem MatchesTable.loadi (a : Operand) : MatchesTable.Statement (.loadi a) := fun _ => encodingBits_wordOf 0x9 a
theorem MatchesTable.and (a : Operand) : MatchesTable.Statement (.and a) := fun _ => encodingBits_wordOf 0xA a
theorem MatchesTable.or (a : Operand) : MatchesTable.Statement (.or a) := fun _ => encodingBits_wordOf 0xB a
theorem MatchesTable.xor (a : Operand) : MatchesTable.Statement (.xor a) := fun _ => encodingBits_wordOf 0xC a
theorem MatchesTable.shl (a : Operand) : MatchesTable.Statement (.shl a) := fun _ => encodingBits_wordOf 0xD a
theorem MatchesTable.shr (a : Operand) : MatchesTable.Statement (.shr a) := fun _ => encodingBits_wordOf 0xE a
theorem MatchesTable.halt (a : Operand) : MatchesTable.Statement (.halt a) := fun _ => encodingBits_wordOf 0xF a
theorem MatchesTable.aluAdd (fn : AluFn) : MatchesTable.Statement (.aluAdd fn) := by unfold MatchesTable.Statement; revert fn; decide
theorem MatchesTable.aluSub (fn : AluFn) : MatchesTable.Statement (.aluSub fn) := by unfold MatchesTable.Statement; revert fn; decide
theorem MatchesTable.aluAnd (fn : AluFn) : MatchesTable.Statement (.aluAnd fn) := by unfold MatchesTable.Statement; revert fn; decide
theorem MatchesTable.aluOr (fn : AluFn) : MatchesTable.Statement (.aluOr fn) := by unfold MatchesTable.Statement; revert fn; decide
theorem MatchesTable.aluXor (fn : AluFn) : MatchesTable.Statement (.aluXor fn) := by unfold MatchesTable.Statement; revert fn; decide
theorem MatchesTable.aluNot (fn : AluFn) : MatchesTable.Statement (.aluNot fn) := by unfold MatchesTable.Statement; revert fn; decide
theorem MatchesTable.aluUnitUnused (fn : AluFn) : MatchesTable.Statement (.aluUnitUnused fn) := by unfold MatchesTable.Statement; revert fn; decide
theorem MatchesTable.aluSll : MatchesTable.Statement .aluSll := fun _ => rfl
theorem MatchesTable.aluLsr : MatchesTable.Statement .aluLsr := fun _ => rfl
theorem MatchesTable.aluAsr : MatchesTable.Statement .aluAsr := fun _ => rfl
theorem MatchesTable.aluRol : MatchesTable.Statement .aluRol := fun _ => rfl
theorem MatchesTable.aluRor : MatchesTable.Statement .aluRor := fun _ => rfl
theorem MatchesTable.aluShiftUnused101 : MatchesTable.Statement .aluShiftUnused101 := fun _ => rfl
theorem MatchesTable.aluShiftUnused110 : MatchesTable.Statement .aluShiftUnused110 := fun _ => rfl
theorem MatchesTable.aluShiftUnused111 : MatchesTable.Statement .aluShiftUnused111 := fun _ => rfl

end Sys2Proof.Laws
end

