-- ==== Sys2Proof/Tests/Slice0.lean ====
section
/-! SUPPORT. Sys2Proof/Tests/Slice0.lean: the model's own tests. Expected values are those of 95_test_vectors.md (V1 to V13,
S1 to S24) or of the worked examples of the rules named; the witnesses show that the statements' hypotheses are met. -/

namespace Sys2Proof.Tests

open Sys2Proof Sys2Proof.Machine

/-! ## Ill-formed terms are refused (one for each check of WellFormed.lean; 42_alu.md R201) -/

theorem test_illformed_aluAdd : (Instr.aluAdd 0b001).wellFormed = false := by decide
theorem test_illformed_aluSub : (Instr.aluSub 0b110).wellFormed = false := by decide
theorem test_illformed_aluAnd : (Instr.aluAnd 0b001).wellFormed = false := by decide
theorem test_illformed_aluOr : (Instr.aluOr 0b000).wellFormed = false := by decide
theorem test_illformed_aluXor : (Instr.aluXor 0b011).wellFormed = false := by decide
theorem test_illformed_aluNot : (Instr.aluNot 0b010).wellFormed = false := by decide

/-! ## Decoding, words written out from 30_encoding.md R94 and 42_alu.md R201 -/

theorem test_decode_nop : decodeTableWord 16 0b0000101010111100 = some (.nop 0xABC) := by decide
theorem test_decode_load : decodeTableWord 16 0b0001000000100000 = some (.load 0x020) := by decide
theorem test_decode_store : decodeTableWord 16 0b0010000000100001 = some (.store 0x021) := by decide
theorem test_decode_add : decodeTableWord 16 0b0011000000110000 = some (.add 0x030) := by decide
theorem test_decode_sub : decodeTableWord 16 0b0100000000110000 = some (.sub 0x030) := by decide
theorem test_decode_mult : decodeTableWord 16 0b0101000000110000 = some (.mult 0x030) := by decide
theorem test_decode_div : decodeTableWord 16 0b0110000000110000 = some (.div 0x030) := by decide
theorem test_decode_jump : decodeTableWord 16 0b0111101010111100 = some (.jump 0xABC) := by decide
theorem test_decode_jz : decodeTableWord 16 0b1000101010111100 = some (.jz 0xABC) := by decide
theorem test_decode_loadi : decodeTableWord 16 0b1001000000000101 = some (.loadi 5) := by decide
theorem test_decode_and : decodeTableWord 16 0b1010000000110000 = some (.and 0x030) := by decide
theorem test_decode_or : decodeTableWord 16 0b1011000000110000 = some (.or 0x030) := by decide
theorem test_decode_xor : decodeTableWord 16 0b1100000000110000 = some (.xor 0x030) := by decide
theorem test_decode_shl : decodeTableWord 16 0b1101000000010011 = some (.shl 0x013) := by decide
theorem test_decode_shr : decodeTableWord 16 0b1110000000000001 = some (.shr 1) := by decide
theorem test_decode_halt : decodeTableWord 16 0b1111111111111111 = some (.halt 0xFFF) := by decide
theorem test_decode_aluAdd : decodeTableWord 8 0b00110 = some (.aluAdd 0b110) := by decide
theorem test_decode_aluSub : decodeTableWord 8 0b00111 = some (.aluSub 0b111) := by decide
theorem test_decode_aluAnd : decodeTableWord 8 0b01100 = some (.aluAnd 0b100) := by decide
theorem test_decode_aluOr : decodeTableWord 8 0b01001 = some (.aluOr 0b001) := by decide
theorem test_decode_aluXor : decodeTableWord 8 0b01010 = some (.aluXor 0b010) := by decide
theorem test_decode_aluNot : decodeTableWord 8 0b01111 = some (.aluNot 0b111) := by decide
theorem test_decode_aluSll : decodeTableWord 8 0b10000 = some (.aluSll) := by decide
theorem test_decode_aluLsr : decodeTableWord 8 0b10001 = some (.aluLsr) := by decide
theorem test_decode_aluAsr : decodeTableWord 8 0b10010 = some (.aluAsr) := by decide
theorem test_decode_aluRol : decodeTableWord 8 0b10011 = some (.aluRol) := by decide
theorem test_decode_aluRor : decodeTableWord 8 0b10100 = some (.aluRor) := by decide
theorem test_decode_aluShiftUnused101 : decodeTableWord 8 0b10101 = some (.aluShiftUnused101) := by decide
theorem test_decode_aluShiftUnused110 : decodeTableWord 8 0b10110 = some (.aluShiftUnused110) := by decide
theorem test_decode_aluShiftUnused111 : decodeTableWord 8 0b10111 = some (.aluShiftUnused111) := by decide
theorem test_decode_aluUnitUnused : decodeTableWord 8 0b11010 = some (.aluUnitUnused 0b010) := by decide

/-- A byte above 5 bits is no ALU control, and no other length is an encoding: refused by name. -/
theorem test_decode_refuses : decodeBytes [0x20] = .error (.controlTooWide 0x20) ∧ decodeBytes [] = .error (.wrongLength 0) ∧
    decodeBytes [0, 0, 0] = .error (.wrongLength 3) := by decide

theorem test_encode_loadi : encode (.loadi 5) = .word 0x9005 ∧ encode (.halt 0) = .word 0xF000 := by decide

/-- An operand above 4095 is an error of the assembler (30_encoding.md R98). -/
theorem test_assemble : assemble 0x9 4095 = some 0x9FFF ∧ assemble 0x9 4096 = none := by decide

/-! ## Blocks (95_test_vectors.md V1 to V10) -/

theorem test_ripple : rippleAdd16 0x00FF 0x0001 false = (0x0100, false) ∧ rippleAdd16 0xFFFF 1 false = (0, true) := by
  decide

theorem test_shift_stages : (List.range 5).map (cascade 7 sllLane 0x8421) = [0x8421, 0x0842, 0x2108, 0x1080, 0x1080] ∧
    (List.range 5).map (cascade 7 (rorLane 0x8421 7) 0x8421) = [0x8421, 0xC210, 0x3084, 0x4308, 0x4308] := by decide

theorem test_shift_engines : sll 0xA5C3 0xB = 0x1800 ∧ lsr 0xA5C3 0xB = 0x0014 ∧ asr 0xA5C3 0xB = 0xFFF4 ∧
    rol 0xA5C3 0xB = 0x1D2E ∧ ror 0xA5C3 0xB = 0xB874 := by decide

theorem test_alu_arith : alu 0x7FFF 1 0b00 0b000 = ⟨0x8000, false, true, false⟩ ∧
    alu 5 0xA 0b00 0b001 = ⟨0xFFFB, false, true, false⟩ := by decide

theorem test_alu_logic : alu 0xFF00 0x0F0F 0b01 0b000 = ⟨0x0F00, false, false, true⟩ ∧
    alu 0xAAAA 0x1234 0b01 0b111 = ⟨0x5555, false, false, true⟩ := by decide

theorem test_alu_unused : alu 0x1234 0xF000 0b11 0b000 = ⟨0, true, false, true⟩ ∧
    alu 0x1234 3 0b10 0b101 = ⟨0, true, false, true⟩ := by decide

theorem test_decoder : decoder4to16 9 = 0x0200 ∧ decoder4to16 15 = 0x8000 := by decide

theorem test_word_views : wordToBinaryChars (10 : BitVec 4) = ['1', '0', '1', '0'] ∧
    (wordGetBit (10 : BitVec 4) 3).toOption = some false ∧ (wordSetBit (10 : BitVec 4) 3 true).toOption = some 11 ∧
    (wordNew 65 0).toOption = none ∧ (signalSet 2).toOption = none := by decide

theorem test_microcounter : microCounterNext 7 true true 0xA true = 0 ∧ microCounterNext 7 false true 0xA true = 0xA ∧
    microCounterNext 0xF false false 0xA true = 0 ∧ microCounterNext 7 false false 0xA false = 7 := by decide

/-- 43_control_unit.md R248 and the decoded word of V8. -/
theorem test_control_store : controlStore 0x93 = 0x40000100 ∧ controlStore 0x56 = 0x01000000 ∧ controlStore 0xB5 = 0x40000245 ∧
    (signalGenerator 0x40000245).endInstr = true ∧ (signalGenerator 0x40000245).halt = false ∧
    aluOpOf 0x40000245 = 0b01 ∧ aluFnOf 0x40000245 = 0b001 := by decide

/-- V13: the multiplier's first two iterations and the divider's eleventh. -/
theorem test_md_iterations : iterateMd multIteration 2 (mdInit 3 5 false) = ⟨3, 0xC000, 5, 2, false⟩ ∧
    iterateMd divIteration 11 (mdInit 0x12C 7 true) = ⟨2, 0x6001, 7, 11, true⟩ := by decide

/-! ## Single instructions (95_test_vectors.md V11) -/

/-- The start of V11: the word at 0x0100, PC there, AC as given, and the word at 0x030. -/
def start (w ac m : Word) : State :=
  loadMemory [(0x0100, w), (0x0030, m)] { State.reset with pc := 0x0100, ac := ac }

/-- PC, MAR, MDR, AC, the flags Z, N, C and the clocks of a next state. -/
def view : Answer → Option ((Word × Word × Word × Word) × (Signal × Signal × Signal) × Nat)
  | .next s => some ((s.pc, s.mar, s.mdr, s.ac), (s.z, s.n, s.c), s.cycleCount)
  | .fault _ => none
  | .refused _ => none

/-- HI, LO, ERR, Z, N, C, RUN and the clocks of a next state. -/
def viewMd : Answer → Option ((Word × Word × Word) × (Signal × Signal × Signal × Signal) × Nat)
  | .next s => some ((s.hi, s.lo, s.err), (s.z, s.n, s.c, s.run), s.cycleCount)
  | .fault _ => none
  | .refused _ => none

/-- The word at an address of a next state. -/
def viewMem (a : Word) : Answer → Option Word
  | .next s => some (memRead s.map s.mem a)
  | .fault _ => none
  | .refused _ => none

theorem test_nop : view (step (start 0x0ABC 0x1234 0)) = some ((0x0101, 0x0100, 0x0ABC, 0x1234), (false, false, false), 4) := by decide
theorem test_load : view (step (start 0x1100 0 0)) = some ((0x0101, 0x0100, 0x1100, 0x1100), (false, false, false), 6) := by decide
theorem test_load_keeps_z : view (step { start 0x1030 0x1111 0 with z := true }) = some ((0x0101, 0x0030, 0, 0), (true, false, false), 6) := by decide
theorem test_store : view (step (start 0x2021 0x00FF 0)) = some ((0x0101, 0x0021, 0x00FF, 0x00FF), (false, false, false), 5) := by decide
theorem test_store_memory : viewMem 0x0021 (step (start 0x2021 0x00FF 0)) = some 0x00FF := by decide
theorem test_add : view (step (start 0x3030 0xFFFF 1)) = some ((0x0101, 0x0030, 1, 0), (true, false, true), 6) := by decide
theorem test_add_overflow : view (step (start 0x3030 0x7FFF 1)) = some ((0x0101, 0x0030, 1, 0x8000), (false, true, false), 6) := by decide
theorem test_sub : view (step (start 0x4030 5 0xA)) = some ((0x0101, 0x0030, 0xA, 0xFFFB), (false, true, false), 6) := by decide
theorem test_sub_equal : view (step (start 0x4030 0x1234 0x1234)) = some ((0x0101, 0x0030, 0x1234, 0), (true, false, true), 6) := by decide
theorem test_mult : viewMd (step { start 0x5030 0xFFFF 0xFFFF with c := true }) = some ((0xFFFE, 0x0001, 0), (false, true, true, true), 25) := by decide
theorem test_mult_zero : viewMd (step { start 0x5030 0x1234 0 with hi := 0x1111, lo := 0x2222 }) = some ((0, 0, 0), (true, false, false, true), 25) := by decide
theorem test_div : viewMd (step (start 0x6030 0x8000 0xFFFF)) = some ((0x8000, 0, 0), (true, false, false, true), 25) := by decide
theorem test_div_by_zero : viewMd (step { start 0x6030 7 0 with hi := 0x1111, lo := 0x2222, z := true, n := true, c := true }) = some ((0x1111, 0x2222, 1), (true, true, true, true), 8) := by decide
theorem test_jump : view (step (start 0x7ABC 0 0)) = some ((0x0ABC, 0x0100, 0x7ABC, 0), (false, false, false), 4) := by decide
theorem test_jz_taken : view (step { start 0x8ABC 0 0 with z := true }) = some ((0x0ABC, 0x0100, 0x8ABC, 0), (true, false, false), 4) := by decide
theorem test_jz_not_taken : view (step (start 0x8ABC 0 0)) = some ((0x0101, 0x0100, 0x8ABC, 0), (false, false, false), 4) := by decide
theorem test_loadi : view (step { start 0x9FFF 0xFFFF 0 with z := true }) = some ((0x0101, 0x0100, 0x9FFF, 0x0FFF), (true, false, false), 4) := by decide
theorem test_and : view (step (start 0xA030 0xFF00 0x0F0F)) = some ((0x0101, 0x0030, 0x0F0F, 0x0F00), (false, false, true), 6) := by decide
theorem test_or : view (step (start 0xB030 0xFF00 0x0F0F)) = some ((0x0101, 0x0030, 0x0F0F, 0xFF0F), (false, true, true), 6) := by decide
theorem test_or_zero : view (step (start 0xB030 0 0)) = some ((0x0101, 0x0030, 0, 0), (true, false, true), 6) := by decide
theorem test_xor : view (step (start 0xC030 0x12C0 0xFFFF)) = some ((0x0101, 0x0030, 0xFFFF, 0xED3F), (false, true, true), 6) := by decide
theorem test_shl : view (step (start 0xD013 1 0)) = some ((0x0101, 0x0100, 0xD013, 8), (false, false, false), 4) := by decide +kernel
theorem test_shl_carry : view (step (start 0xDF04 0xF100 0)) = some ((0x0101, 0x0100, 0xDF04, 0x1000), (false, false, true), 4) := by decide +kernel
theorem test_shr : view (step (start 0xE001 0x8000 0)) = some ((0x0101, 0x0100, 0xE001, 0x4000), (false, false, true), 4) := by decide +kernel
theorem test_shr_zero : view (step (start 0xE000 0x8000 0)) = some ((0x0101, 0x0100, 0xE000, 0x8000), (false, true, true), 4) := by decide +kernel
theorem test_halt : viewMd (step (start 0xFABC 0x1234 0)) = some ((0, 0, 0), (false, false, false, false), 4) := by decide

/-- A read of an unmapped address gives the sentinel and a write to one is discarded (20_memory.md R63, R64). -/
theorem test_unmapped : memRead State.reset.map [] 0x1000 = 0xFFFF ∧ memWrite State.reset.map [] 0x1000 5 = [] ∧
    memWrite State.reset.map [] 0x0FFF 0x0100 = [(0x1FFF, 1)] := by decide

/-- A clock of V13: clock 6 of a divide by zero takes the sequencer to ERROR (43_control_unit.md R256). -/
theorem test_clock_div_zero : (match clocks 6 (start 0x6030 7 0) with
    | .next s => (s.fsm, s.upc) | .fault _ => (.idle, 0) | .refused _ => (.idle, 0)) = (.error, 6) := by decide

/-! ## The ALU at its own ports (95_test_vectors.md V2 to V5) -/

/-- The outputs at the ALU's ports of a next state. -/
def viewPort : Answer → Option (Word × Signal × Signal × Signal)
  | .next s => some ((aluPortOut s).result, (aluPortOut s).z, (aluPortOut s).n, (aluPortOut s).c)
  | .fault _ => none
  | .refused _ => none

/-- The wires at reset give a value of the ALU, 0 + 0 (42_alu.md R200), and driving the operands moves the outputs with them
(10_state.md R36). -/
theorem test_port_wires : viewPort (.next State.reset) = some (0, true, false, false) ∧
    viewPort (.next (driveAluPorts 0x8000 0x8000 0b01010 State.reset)) = some (0, true, false, true) := by decide +kernel

/-- The ALU driven with operands and a control code. -/
def drive (a b : Word) (ctrl : AluCtrl) : Answer := step (driveAluPorts a b ctrl State.reset)

theorem test_port_aluAdd : viewPort (drive 0xFFFF 0x0001 0b00110) = some (0, true, false, true) := by decide +kernel
theorem test_port_aluSub : viewPort (drive 0x0005 0x000A 0b00001) = some (0xFFFB, false, true, false) := by decide +kernel
theorem test_port_aluAnd : viewPort (drive 0x8000 0x8001 0b01100) = some (0x8000, false, true, true) := by decide +kernel
theorem test_port_aluOr : viewPort (drive 0x8000 0x8001 0b01001) = some (0x8001, false, true, false) := by decide +kernel
theorem test_port_aluXor : viewPort (drive 0x8000 0x8001 0b01010) = some (1, false, false, true) := by decide +kernel
theorem test_port_aluNot : viewPort (drive 0x8000 0x8001 0b01011) = some (0x7FFF, false, false, false) := by decide +kernel
theorem test_port_aluSll : viewPort (drive 0xF100 0x0F04 0b10000) = some (0x1000, false, false, true) := by decide +kernel
theorem test_port_aluLsr : viewPort (drive 0x1234 0xFFF5 0b10001) = some (0x0091, false, false, false) := by decide +kernel
theorem test_port_aluAsr : viewPort (drive 0x8000 0x001F 0b10010) = some (0xFFFF, false, true, false) := by decide +kernel
theorem test_port_aluRol : viewPort (drive 0x8000 0x0001 0b10011) = some (1, false, false, true) := by decide +kernel
theorem test_port_aluRor : viewPort (drive 0x0001 0x0001 0b10100) = some (0x8000, false, true, false) := by decide +kernel
theorem test_port_aluShiftUnused101 : viewPort (drive 0x1234 0x0003 0b10101) = some (0, true, false, true) := by decide +kernel
theorem test_port_aluShiftUnused110 : viewPort (drive 0x1234 0xF000 0b10110) = some (0, true, false, true) := by decide +kernel
theorem test_port_aluShiftUnused111 : viewPort (drive 0x1234 0x0003 0b10111) = some (0, true, false, true) := by decide +kernel
theorem test_port_aluUnitUnused : viewPort (drive 0x1234 0xF000 0b11001) = some (0, true, false, false) := by decide +kernel

/-! ## The host's placing (log 6, log 12) -/

theorem test_place_word : view (step (State.reset.withFetchWord 16 0x9005)) =
    some ((1, 0, 0x9005, 5), (false, false, false), 4) := by decide

theorem test_place_control : viewPort (step (State.reset.withFetchWord 8 0x0B)) = some (0xFFFF, false, true, true) := by decide

theorem test_place_running : Ready ({ State.reset with run := false, pc := 0x2000 }.withFetchWord 16 0x9005) ∧
    memRead ({ State.reset with pc := 0x2000 }.withFetchWord 16 0x9005).map
      ({ State.reset with pc := 0x2000 }.withFetchWord 16 0x9005).mem 0x2000 = 0x9005 := by decide

/-! ## Witnesses: the hypotheses of the statements are met -/

theorem witness_DecodeOfEncodeIsTheInstruction : (Instr.aluNot 0b111).wellFormed = true ∧ (Instr.halt 0xFFF).wellFormed = true := by
  decide

theorem witness_NopDoesNothingButFetch : Ready (start 0x0ABC 7 0xFFFF) ∧ memRead (start 0x0ABC 7 0xFFFF).map (start 0x0ABC 7 0xFFFF).mem (start 0x0ABC 7 0xFFFF).pc = wordOf 0x0 0xABC := by decide

theorem witness_LoadPutsTheWordInAc : Ready (start 0x1FFF 7 0xFFFF) ∧ memRead (start 0x1FFF 7 0xFFFF).map (start 0x1FFF 7 0xFFFF).mem (start 0x1FFF 7 0xFFFF).pc = wordOf 0x1 0xFFF := by decide

theorem witness_StoreWritesAcAtTheOperand : Ready (start 0x2FFF 7 0xFFFF) ∧ memRead (start 0x2FFF 7 0xFFFF).map (start 0x2FFF 7 0xFFFF).mem (start 0x2FFF 7 0xFFFF).pc = wordOf 0x2 0xFFF ∧
    mapped (start 0x2FFF 7 0xFFFF).map (zext16 0xFFF) = true ∧ memoryWf (start 0x2FFF 7 0xFFFF).mem = true ∧ mapped ([] : List AddrRange) (zext16 0xFFF) = false ∧
    (0 : Nat) ≠ lowCell (effectiveAddr 0xFFF) ∧ (0 : Nat) ≠ highCell (effectiveAddr 0xFFF) ∧ (0x0FFE : Word) ≠ zext16 0xFFF := by decide

theorem witness_AddLeavesSumAndCarry : Ready (start 0x3030 7 0xFFFF) ∧ memRead (start 0x3030 7 0xFFFF).map (start 0x3030 7 0xFFFF).mem (start 0x3030 7 0xFFFF).pc = wordOf 0x3 0x030 ∧
    (start 0x3030 7 0xFFFF).bus = .free ∧ memRead (start 0x3030 7 0xFFFF).map (start 0x3030 7 0xFFFF).mem (zext16 0x030) = 0xFFFF := by decide

theorem witness_SubLeavesDifferenceAndNoBorrow : Ready (start 0x4030 7 0xFFFF) ∧ memRead (start 0x4030 7 0xFFFF).map (start 0x4030 7 0xFFFF).mem (start 0x4030 7 0xFFFF).pc = wordOf 0x4 0x030 ∧
    (start 0x4030 7 0xFFFF).bus = .free ∧ memRead (start 0x4030 7 0xFFFF).map (start 0x4030 7 0xFFFF).mem (zext16 0x030) = 0xFFFF := by decide

theorem witness_MultLeavesTheExactProduct : Ready (start 0x5030 7 0xFFFF) ∧ memRead (start 0x5030 7 0xFFFF).map (start 0x5030 7 0xFFFF).mem (start 0x5030 7 0xFFFF).pc = wordOf 0x5 0x030 ∧
    (start 0x5030 7 0xFFFF).bus = .free ∧ memRead (start 0x5030 7 0xFFFF).map (start 0x5030 7 0xFFFF).mem (zext16 0x030) = 0xFFFF ∧ 7 * 0xFFFF = (start 0x5030 7 0xFFFF).ac.toNat * (0xFFFF#16).toNat := by decide

theorem witness_DivLeavesQuotientAndRemainderOrRecordsZero : Ready (start 0x6030 7 0xFFFF) ∧ memRead (start 0x6030 7 0xFFFF).map (start 0x6030 7 0xFFFF).mem (start 0x6030 7 0xFFFF).pc = wordOf 0x6 0x030 ∧
    (start 0x6030 7 0xFFFF).bus = .free ∧ memRead (start 0x6030 7 0xFFFF).map (start 0x6030 7 0xFFFF).mem (zext16 0x030) = 0xFFFF ∧
    (0xFFFF#16 : Word) ≠ 0 ∧ (start 0x6030 7 0).bus = .free ∧ memRead (start 0x6030 7 0).map (start 0x6030 7 0).mem (zext16 0x030) = 0 := by decide

theorem witness_JumpLoadsPcWithTheOperand : Ready (start 0x7FFF 7 0xFFFF) ∧ memRead (start 0x7FFF 7 0xFFFF).map (start 0x7FFF 7 0xFFFF).mem (start 0x7FFF 7 0xFFFF).pc = wordOf 0x7 0xFFF := by decide

theorem witness_JzJumpsExactlyWhenZIsSet : Ready (start 0x8FFF 7 0xFFFF) ∧ memRead (start 0x8FFF 7 0xFFFF).map (start 0x8FFF 7 0xFFFF).mem (start 0x8FFF 7 0xFFFF).pc = wordOf 0x8 0xFFF := by decide

theorem witness_LoadiPutsTheOperandInAc : Ready (start 0x9FFF 7 0xFFFF) ∧ memRead (start 0x9FFF 7 0xFFFF).map (start 0x9FFF 7 0xFFFF).mem (start 0x9FFF 7 0xFFFF).pc = wordOf 0x9 0xFFF := by decide

theorem witness_AndLeavesTheConjunction : Ready (start 0xA030 7 0xFFFF) ∧ memRead (start 0xA030 7 0xFFFF).map (start 0xA030 7 0xFFFF).mem (start 0xA030 7 0xFFFF).pc = wordOf 0xA 0x030 ∧
    (start 0xA030 7 0xFFFF).bus = .free ∧ memRead (start 0xA030 7 0xFFFF).map (start 0xA030 7 0xFFFF).mem (zext16 0x030) = 0xFFFF := by decide

theorem witness_OrLeavesTheDisjunction : Ready (start 0xB030 7 0xFFFF) ∧ memRead (start 0xB030 7 0xFFFF).map (start 0xB030 7 0xFFFF).mem (start 0xB030 7 0xFFFF).pc = wordOf 0xB 0x030 ∧
    (start 0xB030 7 0xFFFF).bus = .free ∧ memRead (start 0xB030 7 0xFFFF).map (start 0xB030 7 0xFFFF).mem (zext16 0x030) = 0xFFFF := by decide

theorem witness_XorLeavesTheDifferenceOfBits : Ready (start 0xC030 7 0xFFFF) ∧ memRead (start 0xC030 7 0xFFFF).map (start 0xC030 7 0xFFFF).mem (start 0xC030 7 0xFFFF).pc = wordOf 0xC 0x030 ∧
    (start 0xC030 7 0xFFFF).bus = .free ∧ memRead (start 0xC030 7 0xFFFF).map (start 0xC030 7 0xFFFF).mem (zext16 0x030) = 0xFFFF := by decide

theorem witness_ShlShiftsLeftByTheLowFourBits : Ready (start 0xDFFF 7 0xFFFF) ∧ memRead (start 0xDFFF 7 0xFFFF).map (start 0xDFFF 7 0xFFFF).mem (start 0xDFFF 7 0xFFFF).pc = wordOf 0xD 0xFFF ∧
    (0x8000 : Word) = BitVec.ofNat 16 ((start 0xDFFF 7 0xFFFF).ac.toNat * 2 ^ ((0xFFF : Operand).toNat % 16)) := by decide

theorem witness_ShrShiftsRightByTheLowFourBits : Ready (start 0xEFFF 7 0xFFFF) ∧ memRead (start 0xEFFF 7 0xFFFF).map (start 0xEFFF 7 0xFFFF).mem (start 0xEFFF 7 0xFFFF).pc = wordOf 0xE 0xFFF ∧
    (0 : Word) = BitVec.ofNat 16 ((start 0xEFFF 7 0xFFFF).ac.toNat / 2 ^ ((0xFFF : Operand).toNat % 16)) := by decide

theorem witness_HaltClearsRun : Ready (start 0xFFFF 7 0xFFFF) ∧ memRead (start 0xFFFF 7 0xFFFF).map (start 0xFFFF 7 0xFFFF).mem (start 0xFFFF 7 0xFFFF).pc = wordOf 0xF 0xFFF := by decide

theorem witness_HeldBusRefusesEveryAccess :
    ({ State.reset with bus := .heldBy (.other 1) } : State).bus ≠ .free ∧
    Instr.xor 0x030 ∈ [Instr.load 0x030, .store 0x030, .add 0x030, .sub 0x030, .mult 0x030, .div 0x030, .and 0x030, .or 0x030,
      .xor 0x030] ∧
    ({ State.reset with bus := .heldBy (.other 1) } : State).aluPort.request = none ∧
    ({ State.reset with bus := .heldBy (.other 1) } : State).run = true ∧
    betweenInstructions { State.reset with bus := .heldBy (.other 1) } = true := by decide

theorem witness_AluPortAddsAndSubtracts : (0b110 : AluFn).getLsbD 0 = false ∧ (0b111 : AluFn).getLsbD 0 = true := by decide

theorem witness_AluPortLogicalRows : (0b100 : AluFn).setWidth 2 = 0b00#2 ∧ (0b101 : AluFn).setWidth 2 = 0b01#2 ∧
    (0b110 : AluFn).setWidth 2 = 0b10#2 ∧ (0b111 : AluFn).setWidth 2 = 0b11#2 := by decide

theorem witness_AluPortShiftAndUnusedRows :
    (0xF : ShiftAmount) = BitVec.ofNat 4 (driveAluPorts 0x8000 0xFFFF 0b10010 State.reset).aluPort.b.toNat := by decide

theorem witness_DecoderIsOneHot : (15 : Nat) < 16 ∧ (0 : Nat) < 16 := by decide

theorem witness_WordInterfaceChecksAndKeepsBits : (15 : Nat) < 2 ^ 4 ∧ ¬ (16 : Nat) < 2 ^ 4 ∧ (3 : Nat) < 4 ∧ ¬ (4 : Nat) < 4 ∧
    (0 : Nat) < 4 ∧ (0 : Nat) ≠ 3 := by decide

theorem witness_ReadGivesTheLastWordWritten : memoryWf [(0x60, 1), (0x61, 2)] = true ∧ mapped State.reset.map 0x0FFF = true ∧
    mapped State.reset.map 0x1000 = false ∧ State.reset.bus = .free := by decide

/-- A clock that reads (the fetch's second) and a clock that writes (STORE's last), with the bus held. -/
theorem witness_BusHasOneMasterAtATime : BusMaster.other 1 ≠ .cpu ∧ State.reset.bus = .free ∧ State.reset.run = true ∧
    ({ State.reset with bus := .heldBy (.other 1), upc := 1 } : State).bus ≠ .free ∧
    (controlLines { State.reset with bus := .heldBy (.other 1), upc := 1 }).memRd = true ∧
    (controlLines { State.reset with bus := .heldBy (.other 1), ir := 0x2000, upc := 4 }).memWr = true := by decide

theorem witness_UnmappedFetchHalts : Ready { State.reset with pc := 0x1000 } ∧ mapped State.reset.map 0x1000 = false := by decide

theorem witness_StoreIsSeenByTheNextFetch : Ready (start 0x2101 0x9007 0) ∧
    memRead (start 0x2101 0x9007 0).map (start 0x2101 0x9007 0).mem (start 0x2101 0x9007 0).pc = wordOf 0x2 0x101 ∧
    (start 0x2101 0x9007 0).pc + 1 = zext16 0x101 ∧ mapped (start 0x2101 0x9007 0).map (zext16 0x101) = true ∧
    memoryWf (start 0x2101 0x9007 0).mem = true := by decide

theorem witness_ControlStoreRows : (3#4).toNat < (4#4).toNat ∧ (7#4).toNat < (15#4).toNat := by decide

theorem witness_MultiplierLoopInvariant : (0 : Nat) ≤ 16 ∧ (16 : Nat) ≤ 16 := by decide

theorem witness_DividerLoopInvariant : (0xFFFF : Word) ≠ 0 ∧ (0 : Nat) ≤ 16 ∧ (16 : Nat) ≤ 16 := by decide

theorem witness_StepRunsTheDecodedInstruction : Ready (start 0xFABC 0 0) ∧ (Instr.halt 0xABC).wellFormed = true ∧
    encode (.halt 0xABC) = .word (memRead (start 0xFABC 0 0).map (start 0xFABC 0 0).mem (start 0xFABC 0 0).pc) ∧
    (driveAluPorts 1 2 0b01111 State.reset).aluPort.request = some 0b01111 ∧ (Instr.aluNot 0b111).wellFormed = true ∧
    encode (.aluNot 0b111) = .aluCtrl 0b01111 := by decide

theorem witness_ThreeClocksFetch : Ready (start 0x5030 3 5) := by decide

theorem witness_ClocksAndInstructionRulesAgree : Ready (start 0x6030 7 0) ∧ Ready (start 0x5030 3 5) := by decide

theorem witness_EveryInstructionTakesItsClocks : Ready (start 0x6030 7 0) ∧
    memRead (start 0x6030 7 0).map (start 0x6030 7 0).mem (start 0x6030 7 0).pc = 0x6030 ∧
    memRead (start 0x6030 7 0).map (start 0x6030 7 0).mem (zext16 (operandField 0x6030)) = 0 := by decide

theorem witness_EveryInstructionCycleEnds : ({ start 0x5030 3 5 with upc := 8, fsm := .error } : State).run = true ∧
    ({ start 0x5030 3 5 with upc := 8, fsm := .error } : State).bus = .free := by decide

theorem witness_StepKeepsTheBoundary : AtBoundary (start 0x6030 7 0) ∧ ∃ t, step (start 0x6030 7 0) = .next t :=
  ⟨by decide, _, rfl⟩

theorem witness_StepKeepsTheInvariant : Inv (start 0x2FFF 7 5) ∧ ∃ t, step (start 0x2FFF 7 5) = .next t :=
  ⟨by decide, _, rfl⟩

theorem witness_ResetPutsEveryRegisterAtItsValue : systemReset (start 0x6030 7 0) = systemReset (start 0x6030 7 0) := rfl

theorem witness_HaltedStateIsFinalUntilReset : ({ start 0x6030 7 0 with run := false } : State).run = false ∧
    ({ start 0x6030 7 0 with run := false } : State).aluPort.request = none := by decide

/-- A halting and a non-halting word, and a step of a halted machine. -/
theorem witness_OnlyOpcodeFHalts : Ready (start 0xF000 0 0) ∧ Ready (start 0xEFFF 0 0) ∧
    (∃ t, step (start 0xF000 0 0) = .next t) ∧ (∃ t, step (start 0xEFFF 0 0) = .next t) ∧
    ∃ t, step { State.reset with run := false } = .next t :=
  ⟨by decide, by decide, ⟨_, rfl⟩, ⟨_, rfl⟩, ⟨_, rfl⟩⟩

theorem witness_EveryStepGivesANextState : (start 0x6030 7 0).bus = .free ∧
    ({ State.reset with run := false } : State).run = false ∧
    ({ State.reset with run := false } : State).aluPort.request = none := by decide

theorem witness_DivideByZeroRecordIsSticky : Ready { start 0x6030 7 0 with err := 1 } ∧
    (1#16).getLsbD 0 = true ∧ (∃ t, step { start 0x6030 7 0 with err := 1 } = .next t) ∧
    ∃ t, exec (.div 0x030) (start 0x6030 7 0) = .next t :=
  ⟨by decide, by decide, ⟨_, rfl⟩, ⟨_, rfl⟩⟩

theorem witness_ProgramsSeeOnlyAcPcZRunAndMemory : AtBoundary (start 0x3030 1 2) ∧
    AtBoundary { start 0x3030 1 2 with hi := 5, lo := 6, err := 1, n := true, c := true, ir := 0xFFFF, mdOp := true } ∧
    ProgramEq (start 0x3030 1 2)
      { start 0x3030 1 2 with hi := 5, lo := 6, err := 1, n := true, c := true, ir := 0xFFFF, mdOp := true } := by decide

theorem witness_BoundedRunsCompose : AtBoundary (start 0x3030 1 2) := by decide

theorem witness_IgnoredOperandBitsChangeNothing : (0xFF4 : Operand).toNat % 16 = (0x004 : Operand).toNat % 16 := by decide

theorem witness_AluPortOutputsAreNeverStale : (start 0x3030 1 2).aluPort.request = none ∧
    ∃ t, step (start 0x3030 1 2) = .next t := ⟨rfl, ⟨_, rfl⟩⟩

end Sys2Proof.Tests
end

section
/-! PROOFS. The encoding of the instruction words (30_encoding.md): the two fields of a word, the opcode of each kind,
and the statements of this family made from them. -/

namespace Sys2Proof.Laws

/-! ## The fields of a word (R91) -/

theorem toNat_opcodeField (w : Word) : (opcodeField w).toNat = w.toNat >>> 12 := by
  rw [opcodeField, BitVec.extractLsb'_toNat, Nat.shiftRight_eq_div_pow]
  exact Nat.mod_eq_of_lt (by omega)

theorem toNat_operandField (w : Word) : (operandField w).toNat = w.toNat % 4096 := by
  simp [operandField]

theorem toNat_wordOf (op : Opcode) (a : Operand) : (wordOf op a).toNat = op.toNat * 4096 + a.toNat := by
  rw [wordOf, BitVec.toNat_append, ← Nat.shiftLeft_add_eq_or_of_lt a.isLt, Nat.shiftLeft_eq]

/-- A word is its opcode times 4096 plus its operand. -/
theorem toNat_eq_opcode_mul_add_operand (w : Word) :
    w.toNat = (opcodeField w).toNat * 4096 + (operandField w).toNat := by
  rw [toNat_opcodeField, toNat_operandField, Nat.shiftRight_eq_div_pow]
  omega

@[simp] theorem wordOf_fields (w : Word) : wordOf (opcodeField w) (operandField w) = w :=
  BitVec.eq_of_toNat_eq (by rw [toNat_wordOf, ← toNat_eq_opcode_mul_add_operand])

@[simp] theorem opcodeField_wordOf (op : Opcode) (a : Operand) : opcodeField (wordOf op a) = op := by
  apply BitVec.eq_of_toNat_eq
  rw [toNat_opcodeField, toNat_wordOf, Nat.shiftRight_eq_div_pow]
  omega

@[simp] theorem operandField_wordOf (op : Opcode) (a : Operand) : operandField (wordOf op a) = a := by
  apply BitVec.eq_of_toNat_eq
  rw [toNat_operandField, toNat_wordOf]
  omega

/-! ## The opcode of a kind (R94) -/

/-- The opcode of each kind, the inverse of the decoder's `kindOf`. -/
def opcodeOfKind : Kind → Opcode
  | .nop => 0x0
  | .load => 0x1
  | .store => 0x2
  | .add => 0x3
  | .sub => 0x4
  | .mult => 0x5
  | .div => 0x6
  | .jump => 0x7
  | .jz => 0x8
  | .loadi => 0x9
  | .and => 0xA
  | .or => 0xB
  | .xor => 0xC
  | .shl => 0xD
  | .shr => 0xE
  | .halt => 0xF

@[simp] theorem kindOf_opcodeOfKind (k : Kind) : kindOf (opcodeOfKind k) = k := by
  cases k <;> rfl

@[simp] theorem opcodeOfKind_kindOf (op : Opcode) : opcodeOfKind (kindOf op) = op := by
  revert op; decide

/-! ## The instruction of a kind and an operand -/

theorem wellFormed_instrOfKind (k : Kind) (a : Operand) : (instrOfKind k a).wellFormed = true := by
  cases k <;> rfl

theorem isWord_instrOfKind (k : Kind) (a : Operand) : (instrOfKind k a).isWord = true := by
  cases k <;> rfl

theorem encode_instrOfKind (k : Kind) (a : Operand) :
    encode (instrOfKind k a) = .word (wordOf (opcodeOfKind k) a) := by
  cases k <;> rfl

theorem tableRow_instrOfKind (k : Kind) (a : Operand) :
    tableRow (instrOfKind k a) = ⟨16, 0xF000, (opcodeOfKind k).setWidth 16 <<< 12⟩ := by
  cases k <;> rfl

theorem decodeWord_wordOf (k : Kind) (a : Operand) : decodeWord (wordOf (opcodeOfKind k) a) = instrOfKind k a := by
  simp [decodeWord]

/-- Only the sixteen kinds encode to a word; the other constructors encode to an ALU control (R100). -/
theorem exists_instrOfKind_of_encode_eq_word {i : Instr} {w : Word} (h : encode i = .word w) :
    ∃ k a, i = instrOfKind k a := by
  cases i with
  | nop a => exact ⟨.nop, a, rfl⟩
  | load a => exact ⟨.load, a, rfl⟩
  | store a => exact ⟨.store, a, rfl⟩
  | add a => exact ⟨.add, a, rfl⟩
  | sub a => exact ⟨.sub, a, rfl⟩
  | mult a => exact ⟨.mult, a, rfl⟩
  | div a => exact ⟨.div, a, rfl⟩
  | jump a => exact ⟨.jump, a, rfl⟩
  | jz a => exact ⟨.jz, a, rfl⟩
  | loadi a => exact ⟨.loadi, a, rfl⟩
  | and a => exact ⟨.and, a, rfl⟩
  | or a => exact ⟨.or, a, rfl⟩
  | xor a => exact ⟨.xor, a, rfl⟩
  | shl a => exact ⟨.shl, a, rfl⟩
  | shr a => exact ⟨.shr, a, rfl⟩
  | halt a => exact ⟨.halt, a, rfl⟩
  | _ => cases h

/-! ## Decoding a word (R93) -/

theorem wellFormed_decodeWord (w : Word) : (decodeWord w).wellFormed = true := wellFormed_instrOfKind _ _

theorem isWord_decodeWord (w : Word) : (decodeWord w).isWord = true := isWord_instrOfKind _ _

theorem encode_decodeWord (w : Word) : encode (decodeWord w) = .word w := by
  rw [decodeWord, encode_instrOfKind, opcodeOfKind_kindOf, wordOf_fields]

/-- An instruction that encodes to a word is what the word decodes to. -/
theorem eq_decodeWord_of_encode_eq_word {i : Instr} {w : Word} (h : encode i = .word w) : i = decodeWord w := by
  obtain ⟨k, a, rfl⟩ := exists_instrOfKind_of_encode_eq_word h
  obtain rfl : wordOf (opcodeOfKind k) a = w := by simpa [encode_instrOfKind] using h
  exact (decodeWord_wordOf k a).symm

/-- The row's pattern is the word's top four bits: the mask keeps the opcode, in its place. -/
theorem tableRow_decodeWord (w : Word) : tableRow (decodeWord w) = ⟨16, 0xF000, w &&& 0xF000#16⟩ := by
  have htop : w &&& 0xF000#16 = (opcodeField w).setWidth 16 <<< 12 := by
    simpa [encodingBits] using encodingBits_wordOf (opcodeField w) (operandField w)
  rw [decodeWord, tableRow_instrOfKind, opcodeOfKind_kindOf, htop]

/-! ## The statements -/

/-- Settles O4: each field's value, and the word rebuilt from both. -/
theorem fieldsSplitAndRebuildTheWord : Obligations.FieldsSplitAndRebuildTheWord := fun w =>
  ⟨toNat_opcodeField w, toNat_operandField w, toNat_eq_opcode_mul_add_operand w, wordOf_fields w⟩

/-- Settles O2: decoding inverts encoding on words in both directions, and gives the row of the top four bits. -/
theorem everyWordIsExactlyOneInstruction : Obligations.EveryWordIsExactlyOneInstruction := by
  intro w
  refine ⟨fun i => ⟨fun ⟨_, henc⟩ => eq_decodeWord_of_encode_eq_word henc, ?_⟩, isWord_decodeWord w,
    congrArg TableRow.mask (tableRow_decodeWord w), congrArg TableRow.pattern (tableRow_decodeWord w)⟩
  rintro rfl
  exact ⟨wellFormed_decodeWord w, encode_decodeWord w⟩

end Sys2Proof.Laws
end

section
/-! PROOFS. The primitives (40_primitives.md): a number with one binary digit replaced, the checked operations of a Word
that rest on it, the full adder, and the statements of this family made from them. -/

namespace Sys2Proof.Laws

open Sys2Proof.Machine

/-! ## A number with one binary digit replaced -/

/-- The number `n` with binary digit `p` replaced by `s`: the digits above `p`, then `s`, then those below `p`. -/
def replaceDigit (n p : Nat) (s : Bool) : Nat := 2 ^ p * Nat.bit s (n / 2 ^ p / 2) + n % 2 ^ p

theorem testBit_replaceDigit (n p : Nat) (s : Bool) (k : Nat) :
    (replaceDigit n p s).testBit k = if k = p then s else n.testBit k := by
  rw [replaceDigit, Nat.testBit_two_pow_mul_add _ (Nat.mod_lt n (by positivity))]
  rcases Nat.lt_trichotomy k p with hlt | rfl | hgt
  · simp [hlt, hlt.ne]
  · simp
  · obtain ⟨d, rfl⟩ := Nat.exists_eq_add_of_lt hgt
    have hd : p + d + 1 - p = d + 1 := by omega
    have hshift : d + 1 + p = p + d + 1 := by omega
    rw [if_neg hgt.not_gt, if_neg hgt.ne', hd, Nat.testBit_bit_succ, ← Nat.testBit_succ, Nat.testBit_div_two_pow, hshift]

/-- Replacing a digit by itself changes nothing. -/
theorem replaceDigit_testBit (n p : Nat) : replaceDigit n p (n.testBit p) = n := by
  refine Nat.eq_of_testBit_eq fun k => ?_
  rw [testBit_replaceDigit]
  split
  · next h => rw [h]
  · rfl

/-- R113's formula: the digit's weight is taken off and the new digit's weight is added. -/
theorem sub_add_eq_replaceDigit (n p : Nat) (s : Bool) :
    n - (n.testBit p).toNat * 2 ^ p + s.toNat * 2 ^ p = replaceDigit n p s := by
  have hsplit (b : Bool) : replaceDigit n p b = replaceDigit n p false + b.toNat * 2 ^ p := by
    simp only [replaceDigit, Nat.bit_val, Bool.toNat_false]
    ring
  have hold : n = replaceDigit n p false + (n.testBit p).toNat * 2 ^ p := by
    rw [← hsplit, replaceDigit_testBit]
  rw [hsplit s]
  omega

/-! ## The bits of a Word at its Word indices (R111, R113) -/

/-- The new word of `set_bit`, at every numeric bit position. -/
theorem getLsbD_wordPutBit {width : Nat} (v : BitVec width) (i : Nat) (s : Signal) (k : Nat) :
    (wordPutBit v i s).getLsbD k = (decide (k < width) && if k = width - 1 - i then s else v.getLsbD k) := by
  have hval : wordPutBit v i s = BitVec.ofNat width (replaceDigit v.toNat (width - 1 - i) s) :=
    congrArg (BitVec.ofNat width) (sub_add_eq_replaceDigit v.toNat (width - 1 - i) s)
  rw [hval, BitVec.getLsbD_ofNat, testBit_replaceDigit]
  rfl

theorem wordIndexBit_wordPutBit_same {width : Nat} (v : BitVec width) {i : Nat} (s : Signal) (hi : i < width) :
    wordIndexBit (wordPutBit v i s) i = s := by
  have hpos : width - 1 - i < width := by omega
  rw [wordIndexBit, getLsbD_wordPutBit, if_pos rfl, decide_eq_true hpos, Bool.true_and]

/-- Distinct Word indices are distinct bit positions, so the other bits are kept. -/
theorem wordIndexBit_wordPutBit_other {width : Nat} (v : BitVec width) {i j : Nat} (s : Signal)
    (hi : i < width) (hj : j < width) (hne : j ≠ i) :
    wordIndexBit (wordPutBit v i s) j = wordIndexBit v j := by
  have hpos : width - 1 - j < width := by omega
  have hother : width - 1 - j ≠ width - 1 - i := by omega
  rw [wordIndexBit, getLsbD_wordPutBit, if_neg hother, decide_eq_true hpos, Bool.true_and, wordIndexBit]

/-! ## The checks of the outer interface (R112, R113) -/

theorem wordSetBinary_of_lt {width v : Nat} (h : v < 2 ^ width) :
    wordSetBinary width v = .ok (BitVec.ofNat width v) := if_pos h

theorem wordSetBinary_of_not_lt {width v : Nat} (h : ¬ v < 2 ^ width) :
    wordSetBinary width v = .error .rangeError := if_neg h

theorem wordGetBit_of_lt {width i : Nat} (v : BitVec width) (h : i < width) :
    wordGetBit v i = .ok (wordIndexBit v i) := if_pos h

theorem wordGetBit_of_not_lt {width i : Nat} (v : BitVec width) (h : ¬ i < width) :
    wordGetBit v i = .error .indexError := if_neg h

theorem wordSetBit_of_lt {width i : Nat} (v : BitVec width) (s : Signal) (h : i < width) :
    wordSetBit v i s = .ok (wordPutBit v i s) := if_pos h

theorem wordSetBit_of_not_lt {width i : Nat} (v : BitVec width) (s : Signal) (h : ¬ i < width) :
    wordSetBit v i s = .error .indexError := if_neg h

/-! ## The views (R114) -/

theorem wordToDecimal_ofNat {width v : Nat} (h : v < 2 ^ width) : wordToDecimal (BitVec.ofNat width v) = v := by
  rw [wordToDecimal, BitVec.toNat_ofNat, Nat.mod_eq_of_lt h]

@[simp] theorem length_wordToBinaryChars {width : Nat} (v : BitVec width) : (wordToBinaryChars v).length = width := by
  simp [wordToBinaryChars]

/-! ## The full adder (R122) -/

theorem fullAdder_sum (a b cin : Signal) : (fullAdder a b cin).1 = ((a ^^ b) ^^ cin) := rfl

theorem fullAdder_carry (a b cin : Signal) : (fullAdder a b cin).2 = ((a && b) || ((a ^^ b) && cin)) := rfl

/-- The truth table of R123, read as numbers. -/
theorem fullAdder_toNat (a b cin : Signal) :
    2 * (fullAdder a b cin).2.toNat + (fullAdder a b cin).1.toNat = a.toNat + b.toNat + cin.toNat := by
  revert a b cin; decide

/-! ## The statements -/

/-- Settles O33: the range and index checks, the two views, and the digit that `set_bit` replaces. -/
theorem wordInterfaceChecksAndKeepsBits : Obligations.WordInterfaceChecksAndKeepsBits := by
  refine ⟨fun width v => ⟨fun hv => ?_, wordSetBinary_of_not_lt, rfl⟩, fun width v i b => ⟨fun hi => ?_, fun hi => ?_⟩⟩
  · exact ⟨wordSetBinary_of_lt hv, wordToDecimal_ofNat hv, length_wordToBinaryChars _⟩
  · exact ⟨wordGetBit_of_lt v hi, wordSetBit_of_lt v b hi, wordIndexBit_wordPutBit_same v b hi,
      fun _ hj hne => wordIndexBit_wordPutBit_other v b hi hj hne⟩
  · exact ⟨wordGetBit_of_not_lt v hi, wordSetBit_of_not_lt v b hi⟩

/-- Settles O26: the two gate equations and the sum of the three bits. -/
theorem fullAdderAddsThreeBits : Obligations.FullAdderAddsThreeBits := fun a b cin =>
  ⟨fullAdder_sum a b cin, fullAdder_carry a b cin, fullAdder_toNat a b cin⟩

end Sys2Proof.Laws
end

section
/-! PROOFS. The ALU (42_alu.md): the ripple adder's lanes summed as numbers, the arithmetic unit's carry-out, the
functions of the logical unit, and the statements of this family made from them. -/

namespace Sys2Proof.Laws

open Sys2Proof.Machine

/-- Lane `i` of a word built from lanes, where `simp` writes a lane in range as an indexed bit. -/
@[simp] theorem getElem_wordOfLanes (f : Nat → Signal) (i : Nat) (hi : i < 16) : (wordOfLanes f)[i] = f i := by
  rw [← BitVec.getLsbD_eq_getElem, getLsbD_wordOfLanes, decide_eq_true hi, Bool.true_and]

/-! ## The ripple adder as a sum of numbers (40_primitives.md R124) -/

/-- The low lanes of a word, read as a number. -/
theorem lanesNat_getLsbD (x : Word) (n : Nat) : lanesNat x.getLsbD n = x.toNat % 2 ^ n := by
  refine Nat.eq_of_testBit_eq fun i => ?_
  rw [testBit_lanesNat, Nat.testBit_mod_two_pow]
  rfl

theorem lanesNat_succ (f : Nat → Signal) (n : Nat) : lanesNat f (n + 1) = lanesNat f n + 2 ^ n * (f n).toNat := by
  rw [lanesNat]
  cases f n <;> simp

/-- The lowest `n` sum lanes and the carry into lane `n` are the sum of the operands' lowest `n` lanes. -/
theorem lanesNat_sum_add_rippleCarry (a b : Word) (cin : Signal) (n : Nat) :
    lanesNat (fun i => (fullAdder (a.getLsbD i) (b.getLsbD i) (rippleCarry a b cin i)).1) n +
        2 ^ n * (rippleCarry a b cin n).toNat =
      lanesNat a.getLsbD n + lanesNat b.getLsbD n + cin.toNat := by
  induction n with
  | zero => simp [lanesNat, rippleCarry]
  | succ n ih =>
    have hlane := fullAdder_toNat (a.getLsbD n) (b.getLsbD n) (rippleCarry a b cin n)
    simp only [lanesNat_succ, rippleCarry, pow_succ]
    linear_combination ih + 2 ^ n * hlane

/-- The ripple adder's sum and carry-out together are the exact sum. -/
theorem toNat_rippleAdd16 (a b : Word) (cin : Signal) :
    (rippleAdd16 a b cin).1.toNat + 65536 * (rippleAdd16 a b cin).2.toNat = a.toNat + b.toNat + cin.toNat := by
  have hsum := lanesNat_sum_add_rippleCarry a b cin 16
  rw [lanesNat_getLsbD, lanesNat_getLsbD, Nat.mod_eq_of_lt a.isLt, Nat.mod_eq_of_lt b.isLt] at hsum
  rw [rippleAdd16, wordOfLanes, BitVec.toNat_ofNat, Nat.mod_eq_of_lt (lanesNat_lt _ 16)]
  exact hsum

/-- The ripple adder's carry-out is 1 exactly when the exact sum does not fit in a word. -/
theorem rippleAdd16_carry (a b : Word) (cin : Signal) :
    (rippleAdd16 a b cin).2 = decide (65536 ≤ a.toNat + b.toNat + cin.toNat) := by
  have hsum := toNat_rippleAdd16 a b cin
  have hword := (rippleAdd16 a b cin).1.isLt
  cases hc : (rippleAdd16 a b cin).2 with
  | false =>
    rw [hc, Bool.toNat_false] at hsum
    exact (decide_eq_false (by omega)).symm
  | true =>
    rw [hc, Bool.toNat_true] at hsum
    exact (decide_eq_true (by omega)).symm

/-! ## The arithmetic unit (R180 to R183) -/

/-- The inverter stage before the adder: operand B itself for a sum, its complement for a difference. -/
theorem wordOfLanes_xor2 (b : Word) (sub : Signal) :
    (wordOfLanes fun i => xor2 (b.getLsbD i) sub) = if sub then ~~~ b else b := by
  refine word_ext fun i hi => ?_
  cases sub <;> simp [xor2, hi]

theorem arithUnit_false (a b : Word) : arithUnit a b false = rippleAdd16 a b false := by
  rw [arithUnit, wordOfLanes_xor2]
  rfl

/-- A difference is a sum with the complement, and a carry-in of 1. -/
theorem arithUnit_true (a b : Word) : arithUnit a b true = rippleAdd16 a (~~~ b) true := by
  rw [arithUnit, wordOfLanes_xor2]
  rfl

/-- The carry-out of the arithmetic unit: unsigned overflow of the sum, no borrow of the difference (R181, R182). -/
theorem arithUnit_carry (a b : Word) (sub : Signal) : (arithUnit a b sub).2 = carryOut a b sub := by
  cases sub with
  | false => rw [arithUnit_false, rippleAdd16_carry]; rfl
  | true =>
    have hborrow : 65536 ≤ a.toNat + (~~~ b).toNat + 1 ↔ b.toNat ≤ a.toNat := by
      rw [BitVec.toNat_not]
      omega
    rw [arithUnit_true, rippleAdd16_carry]
    exact decide_eq_decide.mpr hborrow

/-! ## The logical unit (R190): each mode picks one function on every lane -/

theorem getElem_logicUnit (a b : Word) (lmode : BitVec 2) (i : Nat) (hi : i < 16) :
    (logicUnit a b lmode)[i] = mux4 (a[i] && b[i]) (a[i] || b[i]) (a[i] ^^ b[i]) (!a[i]) lmode := by
  simp [logicUnit, and2, or2, xor2, gateNot, hi]

theorem logicUnit_and (a b : Word) : logicUnit a b 0b00 = a &&& b :=
  BitVec.eq_of_getElem_eq fun i hi => by simp [getElem_logicUnit, mux4]

theorem logicUnit_or (a b : Word) : logicUnit a b 0b01 = a ||| b :=
  BitVec.eq_of_getElem_eq fun i hi => by simp [getElem_logicUnit, mux4]

theorem logicUnit_xor (a b : Word) : logicUnit a b 0b10 = a ^^^ b :=
  BitVec.eq_of_getElem_eq fun i hi => by simp [getElem_logicUnit, mux4]

/-- NOT is a function of A alone. -/
theorem logicUnit_not (a b : Word) : logicUnit a b 0b11 = ~~~ a :=
  BitVec.eq_of_getElem_eq fun i hi => by simp [getElem_logicUnit, mux4]

/-! ## The ALU's flags (R203 to R205) -/

theorem zeroFlag_eq_true_iff (result : Word) : zeroFlag result = true ↔ result = 0 := beq_iff_eq

/-- Zero is read off the selected result, whichever unit it comes from. -/
theorem alu_z (a b : Word) (op : AluOp) (fn : AluFn) : (alu a b op fn).z = true ↔ (alu a b op fn).result = 0 :=
  zeroFlag_eq_true_iff _

theorem alu_n (a b : Word) (op : AluOp) (fn : AluFn) : (alu a b op fn).n = (alu a b op fn).result.getLsbD 15 := rfl

/-- Carry does not depend on `ALUop`. -/
theorem alu_c (a b : Word) (op : AluOp) (fn : AluFn) : (alu a b op fn).c = (arithUnit a b (fn.getLsbD 0)).2 := rfl

/-! ## The statements -/

/-- Settles O28: one equation for each mode, lane by lane. -/
theorem logicUnitFunctions : Obligations.LogicUnitFunctions := fun a b =>
  ⟨logicUnit_and a b, logicUnit_or a b, logicUnit_xor a b, logicUnit_not a b⟩

/-- Settles O31: a fact about each flag, and the closed form of the arithmetic unit's carry-out. -/
theorem aluFlagsOfEveryEvaluation : Obligations.AluFlagsOfEveryEvaluation := fun a b op fn =>
  ⟨alu_z a b op fn, alu_n a b op fn, alu_c a b op fn, (alu_c a b op fn).trans (arithUnit_carry a b _)⟩

end Sys2Proof.Laws
end

section
/-! PROOFS. The control unit (43_control_unit.md): the microcounter's next value, one equation for each control input in
the order of its priority, and the statement made from them. -/

namespace Sys2Proof.Laws

open Sys2Proof.Machine

/-! ## The microcounter (R249) -/

@[simp] theorem microCounterNext_reset (value loadValue : MicroStep) (load inc : Signal) :
    microCounterNext value true load loadValue inc = 0 := rfl

@[simp] theorem microCounterNext_load (value loadValue : MicroStep) (inc : Signal) :
    microCounterNext value false true loadValue inc = loadValue := rfl

@[simp] theorem microCounterNext_inc (value loadValue : MicroStep) :
    microCounterNext value false false loadValue true = value + 1 := rfl

@[simp] theorem microCounterNext_hold (value loadValue : MicroStep) :
    microCounterNext value false false loadValue false = value := rfl

/-- The increment is modulo 16, so 15 wraps to 0. -/
theorem toNat_microCounterNext_inc (value loadValue : MicroStep) :
    (microCounterNext value false false loadValue true).toNat = (value.toNat + 1) % 16 := by
  rw [microCounterNext_inc, BitVec.toNat_add]
  rfl

/-! ## The statements -/

/-- Settles O40: one equation for each control input, and the increment read as a number. -/
theorem microcounterPriority : Obligations.MicrocounterPriority := fun value loadValue load inc =>
  ⟨microCounterNext_reset value loadValue load inc, microCounterNext_load value loadValue inc,
    toNat_microCounterNext_inc value loadValue, microCounterNext_hold value loadValue⟩

end Sys2Proof.Laws
end

section
/-! PROOFS. The CPU cycle (44_cpu_cycle.md): what the clock, the instruction cycle, a bounded run and the step answer from
a halted state, and the statement made from them. -/

namespace Sys2Proof.Laws

open Sys2Proof.Machine

/-! ## The halted state (R299) -/

theorem clock_halted {s : State} (hhalted : s.run = false) : clock s = .next s := by
  rw [clock, hhalted, if_neg Bool.false_ne_true]

theorem instructionCycle_halted {s : State} (hhalted : s.run = false) : instructionCycle s = .next s := by
  rw [instructionCycle, hhalted, if_neg Bool.false_ne_true]

/-- A bounded run of a halted core is over at once, whatever the bound. -/
theorem runCycles_halted {s : State} (hhalted : s.run = false) (max : Nat) : runCycles max s = .next s := by
  cases max with
  | zero => rfl
  | succ max => rw [runCycles, hhalted, if_neg Bool.false_ne_true]

/-- Only a request at the ALU's own ports makes the step of a halted core other than no change (log 4). -/
theorem step_halted {s : State} (hhalted : s.run = false) (hreq : s.aluPort.request = none) : step s = .next s := by
  rw [step_no_request hreq, instructionCycle_halted hhalted]

@[simp] theorem systemReset_run (s : State) : (systemReset s).run = true := rfl

/-! ## The statements -/

/-- Settles O53: one equation for each way to advance a halted core, and RUN after a system reset. -/
theorem haltedStateIsFinalUntilReset : Obligations.HaltedStateIsFinalUntilReset := fun s hhalted =>
  ⟨clock_halted hhalted, instructionCycle_halted hhalted, runCycles_halted hhalted, step_halted hhalted,
    systemReset_run s⟩

end Sys2Proof.Laws
end

section
/-! PROOFS. The shift block (41_barrel_shifter.md): each stage of the two logical engines shifts by its distance or not
at all, so the cascade shifts by the whole amount. -/

namespace Sys2Proof.Laws

open Sys2Proof.Machine

/-! ## One stage (R151) -/

/-- Stage `k` of SLL shifts by `2^k` when the amount's bit `k` is set, and else by nothing (R153). -/
theorem shiftStage_sllLane (amt : ShiftAmount) (k : Nat) (t : Word) :
    shiftStage amt k t (sllLane k t) = t <<< (2 ^ k * (amt.getLsbD k).toNat) := by
  refine word_ext fun i hi => ?_
  cases hbit : amt.getLsbD k with
  | false => simp [shiftStage, mux2, hbit, hi]
  | true =>
    rcases Nat.lt_or_ge i (2 ^ k) with hlow | hhigh
    · simp [shiftStage, mux2, hbit, sllLane, stageDistance, hi, hlow, hlow.not_ge]
    · have hsource : i - 2 ^ k < 16 := lt_of_le_of_lt (Nat.sub_le i _) hi
      simp [shiftStage, mux2, hbit, sllLane, stageDistance, hi, hhigh, hhigh.not_gt, BitVec.getLsbD_eq_getElem hsource]

/-- Stage `k` of LSR shifts by `2^k` when the amount's bit `k` is set, and else by nothing (R154). -/
theorem shiftStage_lsrLane (amt : ShiftAmount) (k : Nat) (t : Word) :
    shiftStage amt k t (lsrLane k t) = t >>> (2 ^ k * (amt.getLsbD k).toNat) := by
  refine word_ext fun i hi => ?_
  cases hbit : amt.getLsbD k with
  | false => simp [shiftStage, mux2, hbit, hi]
  | true =>
    have hlane : lsrLane k t i = t.getLsbD (2 ^ k + i) := by
      rw [lsrLane, stageDistance, Nat.add_comm i]
      split
      · rfl
      · exact (BitVec.getLsbD_of_ge t _ (by omega)).symm
    simp [shiftStage, mux2, hbit, hlane, hi]

/-! ## The cascade (R153, R154) -/

/-- The amount's low `m + 1` bits: its low `m` bits, and bit `m` at its weight. -/
theorem amount_mod_succ (amt : ShiftAmount) (m : Nat) :
    amt.toNat % 2 ^ (m + 1) = amt.toNat % 2 ^ m + 2 ^ m * (amt.getLsbD m).toNat := by
  rw [Nat.mod_pow_succ, ← Nat.toNat_testBit, BitVec.testBit_toNat]

/-- The first `m` stages of SLL shift by the amount's low `m` bits. -/
theorem cascade_sllLane (amt : ShiftAmount) (x : Word) (m : Nat) :
    cascade amt sllLane x m = x <<< (amt.toNat % 2 ^ m) := by
  induction m with
  | zero => simp [cascade, Nat.mod_one]
  | succ m ih => rw [cascade, shiftStage_sllLane, ih, amount_mod_succ, BitVec.shiftLeft_add]

/-- The first `m` stages of LSR shift by the amount's low `m` bits. -/
theorem cascade_lsrLane (amt : ShiftAmount) (x : Word) (m : Nat) :
    cascade amt lsrLane x m = x >>> (amt.toNat % 2 ^ m) := by
  induction m with
  | zero => simp [cascade, Nat.mod_one]
  | succ m ih => rw [cascade, shiftStage_lsrLane, ih, amount_mod_succ, BitVec.shiftRight_add]

theorem sll_eq_shiftLeft (x : Word) (amt : ShiftAmount) : sll x amt = x <<< amt.toNat := by
  rw [sll, cascade_sllLane, Nat.mod_eq_of_lt amt.isLt]

theorem lsr_eq_ushiftRight (x : Word) (amt : ShiftAmount) : lsr x amt = x >>> amt.toNat := by
  rw [lsr, cascade_lsrLane, Nat.mod_eq_of_lt amt.isLt]

/-- SLL as a number: the product with a power of two, modulo 2^16. -/
theorem sll_eq_sllClosed (x : Word) (amt : ShiftAmount) : sll x amt = sllClosed x amt := by
  rw [sll_eq_shiftLeft, sllClosed, ← Nat.shiftLeft_eq]
  rfl

/-- LSR as a number: the quotient by a power of two. -/
theorem lsr_eq_lsrClosed (x : Word) (amt : ShiftAmount) : lsr x amt = lsrClosed x amt := by
  apply BitVec.eq_of_toNat_eq
  have hquot : x.toNat / 2 ^ amt.toNat < 2 ^ 16 := lt_of_le_of_lt (Nat.div_le_self _ _) x.isLt
  rw [lsr_eq_ushiftRight, lsrClosed, BitVec.toNat_ushiftRight, Nat.shiftRight_eq_div_pow, BitVec.toNat_ofNat,
    Nat.mod_eq_of_lt hquot]

/-! ## The engine picked by the mode (R161) -/

theorem shiftUnit_sll (x : Word) (amt : ShiftAmount) : shiftUnit x amt 0b000 = sll x amt :=
  word_ext fun i hi => by simp [shiftUnit, mux8, hi]

theorem shiftUnit_lsr (x : Word) (amt : ShiftAmount) : shiftUnit x amt 0b001 = lsr x amt :=
  word_ext fun i hi => by simp [shiftUnit, mux8, hi]

end Sys2Proof.Laws
end

section
/-! PROOFS. The ALU's outputs (42_alu.md R200 to R205) for the seven controls that an instruction uses: the arithmetic
unit's sum and difference, the unit picked by `ALUop`, and all four outputs in closed form. -/

namespace Sys2Proof.Laws

open Sys2Proof.Machine

/-! ## The arithmetic unit's result (R181, R182) -/

/-- The ripple adder's sum is the sum modulo 2^16. -/
theorem rippleAdd16_sum (a b : Word) (cin : Signal) :
    (rippleAdd16 a b cin).1.toNat = (a.toNat + b.toNat + cin.toNat) % 65536 := by
  have hsum := toNat_rippleAdd16 a b cin
  have hword := (rippleAdd16 a b cin).1.isLt
  omega

theorem arithUnit_sum (a b : Word) : (arithUnit a b false).1 = a + b := by
  apply BitVec.eq_of_toNat_eq
  rw [arithUnit_false, rippleAdd16_sum, BitVec.toNat_add]
  rfl

/-- Adding the complement and a carry-in of 1 subtracts. -/
theorem arithUnit_difference (a b : Word) : (arithUnit a b true).1 = a - b := by
  apply BitVec.eq_of_toNat_eq
  rw [arithUnit_true, rippleAdd16_sum, BitVec.toNat_not, BitVec.toNat_sub, Bool.toNat_true]
  omega

/-! ## The unit picked by `ALUop` (40_primitives.md R129, 42_alu.md R200) -/

theorem mux3Word_first (x y z : Word) : mux3Word x y z 0b00 = x :=
  word_ext fun i hi => by simp [mux3Word, mux3, hi]

theorem mux3Word_second (x y z : Word) : mux3Word x y z 0b01 = y :=
  word_ext fun i hi => by simp [mux3Word, mux3, hi]

theorem mux3Word_third (x y z : Word) : mux3Word x y z 0b10 = z :=
  word_ext fun i hi => by simp [mux3Word, mux3, hi]

/-- With `ALUop` 00 the result is the arithmetic unit's. -/
theorem alu_result_arith (a b : Word) (fn : AluFn) :
    (alu a b 0b00 fn).result = (arithUnit a b (fn.getLsbD 0)).1 := mux3Word_first _ _ _

/-- With `ALUop` 01 the result is the logical unit's. -/
theorem alu_result_logic (a b : Word) (fn : AluFn) :
    (alu a b 0b01 fn).result = logicUnit a b (fn.setWidth 2) := mux3Word_second _ _ _

/-- With `ALUop` 10 the result is the shift unit's, for operand A and the low four bits of operand B. -/
theorem alu_result_shift (a b : Word) (fn : AluFn) :
    (alu a b 0b10 fn).result = shiftUnit a (b.setWidth 4) fn := mux3Word_third _ _ _

/-! ## All four outputs -/

/-- The result determines Zero and Negative, and Carry is the operands' whatever the result is (R203 to R205). -/
theorem alu_of_result {a b : Word} {op : AluOp} {fn : AluFn} {r : Word} (hr : (alu a b op fn).result = r) :
    alu a b op fn = ⟨r, decide (r = 0), r.getLsbD 15, carryOut a b (fn.getLsbD 0)⟩ := by
  subst hr
  rw [← arithUnit_carry]
  rfl

theorem alu_add (a b : Word) :
    alu a b 0b00 0b000 =
      ⟨a + b, decide ((a.toNat + b.toNat) % 65536 = 0), (a + b).getLsbD 15, decide (65536 ≤ a.toNat + b.toNat)⟩ := by
  have hz : (a.toNat + b.toNat) % 65536 = 0 ↔ a + b = 0 := by rw [BitVec.toNat_eq, BitVec.toNat_add]; rfl
  rw [alu_of_result ((alu_result_arith a b 0b000).trans (arithUnit_sum a b)), decide_eq_decide.mpr hz]
  rfl

theorem alu_sub (a b : Word) :
    alu a b 0b00 0b001 = ⟨a - b, decide (a = b), (a - b).getLsbD 15, decide (b.toNat ≤ a.toNat)⟩ := by
  rw [alu_of_result ((alu_result_arith a b 0b001).trans (arithUnit_difference a b)), decide_eq_decide.mpr sub_eq_zero]
  rfl

theorem alu_and (a b : Word) :
    alu a b 0b01 0b000 =
      ⟨a &&& b, decide (a &&& b = 0), (a &&& b).getLsbD 15, decide (65536 ≤ a.toNat + b.toNat)⟩ :=
  alu_of_result ((alu_result_logic a b 0b000).trans (logicUnit_and a b))

theorem alu_or (a b : Word) :
    alu a b 0b01 0b001 = ⟨a ||| b, decide (a ||| b = 0), (a ||| b).getLsbD 15, decide (b.toNat ≤ a.toNat)⟩ :=
  alu_of_result ((alu_result_logic a b 0b001).trans (logicUnit_or a b))

theorem alu_xor (a b : Word) :
    alu a b 0b01 0b010 = ⟨a ^^^ b, decide (a = b), (a ^^^ b).getLsbD 15, decide (65536 ≤ a.toNat + b.toNat)⟩ := by
  have hz : a ^^^ b = 0 ↔ a = b := BitVec.xor_eq_zero_iff
  rw [alu_of_result ((alu_result_logic a b 0b010).trans (logicUnit_xor a b)), decide_eq_decide.mpr hz]
  rfl

/-- The shift amount is the low four bits of operand B; the carry takes all of it (45_instructions.md R335). -/
theorem alu_sll {a b r : Word} (hr : sll a (b.setWidth 4) = r) :
    alu a b 0b10 0b000 = ⟨r, decide (r = 0), r.getLsbD 15, decide (65536 ≤ a.toNat + b.toNat)⟩ :=
  alu_of_result ((alu_result_shift a b 0b000).trans ((shiftUnit_sll a _).trans hr))

/-- As for SLL, with the carry-out of the difference (45_instructions.md R336). -/
theorem alu_lsr {a b r : Word} (hr : lsr a (b.setWidth 4) = r) :
    alu a b 0b10 0b001 = ⟨r, decide (r = 0), r.getLsbD 15, decide (b.toNat ≤ a.toNat)⟩ :=
  alu_of_result ((alu_result_shift a b 0b001).trans ((shiftUnit_lsr a _).trans hr))

end Sys2Proof.Laws
end

section
/-! PROOFS. The instructions (45_instructions.md): the fetch of any instruction word said once, the meaning of an ALU
instruction from the ALU's outputs, the operand as a number, the double-wide product, and the statements of this family
made from them. -/

namespace Sys2Proof.Laws

open Sys2Proof.Machine

/-! ## FETCH (R320, R321) -/

theorem betweenInstructions_of_atBoundary {s : State} (h : AtBoundary s) : betweenInstructions s = true := by
  obtain ⟨hupc, hfsm, -⟩ := h
  simp [betweenInstructions, hupc, hfsm]

/-- The step of a ready state is FETCH and then the meaning of the word at PC. -/
theorem step_ready {s : State} (h : Ready s) :
    step s = exec (decodeWord (memRead s.map s.mem s.pc)) (fetched (memRead s.map s.mem s.pc) s) := by
  obtain ⟨hrun, hboundary, hreq⟩ := h
  have hbetween := betweenInstructions_of_atBoundary hboundary
  obtain ⟨-, -, hbus⟩ := hboundary
  rw [step_no_request hreq, instructionCycle, if_pos hrun, if_pos hbetween, fetch_free hbus]
  rfl

/-- Every instruction is fetched alike: the word of a kind and an operand runs that kind's instruction (R93). -/
theorem fetchRuns (k : Kind) : FetchRuns (opcodeOfKind k) (instrOfKind k) := by
  intro a s hready hword
  rw [step_ready hready, hword, decodeWord_wordOf]

/-! ## The operand (R340) -/

theorem toNat_zext16 (a : Operand) : (zext16 a).toNat = a.toNat :=
  BitVec.toNat_setWidth_of_le (by omega)

theorem toNat_zext16_le (a : Operand) : (zext16 a).toNat ≤ 0x0FFF := by
  rw [toNat_zext16]
  omega

/-- The shifter's amount is the operand's low four bits. -/
theorem toNat_amount_zext16 (a : Operand) : ((zext16 a).setWidth 4).toNat = a.toNat % 16 := by
  rw [BitVec.toNat_setWidth, toNat_zext16]

/-- The memory operand on a free bus: the word at the operand, in MDR with the operand in MAR (R323). -/
theorem withMemOperand_of_memRead {a : Operand} {s : State} {m : Word} (hbus : s.bus = .free)
    (hm : memRead s.map s.mem (zext16 a) = m) (k : Word → State → Answer) :
    withMemOperand a s k = k m (setOperand (zext16 a) m s) := by
  subst hm
  exact withMemOperand_free hbus a k

/-! ## ALU instructions (R325, R326, R332 to R336) -/

/-- The state after an ALU instruction on a memory operand, from the ALU's outputs `r` for AC and the word read. -/
theorem execAluMemory_of_alu {op : AluOp} {fn : AluFn} {a : Operand} {s : State} {m : Word} {r : AluOut}
    (hbus : s.bus = .free) (hm : memRead s.map s.mem (zext16 a) = m) (hr : alu s.ac m op fn = r) :
    execAluMemory op fn a s = .next
      { s with
        mar := zext16 a, mdr := m, ac := r.result, z := r.z, n := r.n, c := r.c
        upc := 0, cycleCount := s.cycleCount + 3, instrCount := s.instrCount + 1 } := by
  subst hr
  exact withMemOperand_of_memRead hbus hm _

/-- The sign after a logical right shift: zeros enter at the top, so only amount 0 keeps it (R336). -/
theorem getLsbD_lsr_15 (x : Word) (amt : ShiftAmount) :
    (lsr x amt).getLsbD 15 = (decide (amt.toNat = 0) && x.getLsbD 15) := by
  rw [lsr_eq_ushiftRight, BitVec.getLsbD_ushiftRight]
  by_cases hzero : amt.toNat = 0
  · simp [hzero]
  · rw [decide_eq_false hzero, Bool.false_and]
    exact BitVec.getLsbD_of_ge x _ (by omega)

/-! ## The product (R327) -/

/-- The exact product of two words is at most 0xFFFF squared, so it fits in 32 bits. -/
theorem word_mul_word_le (x y : Word) : x.toNat * y.toNat ≤ 0xFFFE0001 :=
  Nat.mul_le_mul (Nat.le_of_lt_succ x.isLt) (Nat.le_of_lt_succ y.isLt)

theorem toNat_product (x y : Word) : (product x y).toNat = x.toNat * y.toNat := by
  have hfits := word_mul_word_le x y
  rw [product, BitVec.toNat_mul, BitVec.toNat_setWidth_of_le (by omega), BitVec.toNat_setWidth_of_le (by omega)]
  exact Nat.mod_eq_of_lt (by omega)

theorem extractLsb'_high_eq_ofNat (v : BitVec 32) : v.extractLsb' 16 16 = BitVec.ofNat 16 (v.toNat / 65536) := by
  rw [BitVec.extractLsb', Nat.shiftRight_eq_div_pow]

/-- Zero of a multiply is taken over both halves of the product (43_control_unit.md R266). -/
theorem mdZero_halves (v : BitVec 32) :
    mdZero false (v.extractLsb' 16 16) (v.extractLsb' 0 16) = decide (v.toNat = 0) := by
  have hjoin : v.extractLsb' 16 16 ++ v.extractLsb' 0 16 = v :=
    (BitVec.extractLsb'_append_extractLsb'_eq_extractLsb' (by rfl)).trans BitVec.extractLsb'_eq_self
  have hzero : v.toNat = 0 ↔ v = 0 := (BitVec.toNat_eq (x := v) (y := 0)).symm
  rw [decide_eq_decide.mpr hzero]
  exact congrArg (· == 0#32) hjoin

/-- Negative of a multiply is the product's top bit (43_control_unit.md R266). -/
theorem mdNegative_high (v : BitVec 32) (lo : Word) :
    mdNegative false (v.extractLsb' 16 16) lo = v.toNat.testBit 31 :=
  BitVec.getLsbD_extractLsb' 16 16 v 15

/-- The multiply's registers and flags, from the exact product as a number. -/
theorem setMdResult_product {s : State} {m : Word} {p : Nat} (hp : p = s.ac.toNat * m.toNat) :
    setMdResult false ((product s.ac m).extractLsb' 16 16) ((product s.ac m).extractLsb' 0 16) m s =
      { s with
        hi := BitVec.ofNat 16 (p / 65536), lo := BitVec.ofNat 16 p
        z := decide (p = 0), n := p.testBit 31, mdB := m, mdCnt := 0, mdOp := false, fsm := .idle } := by
  obtain rfl : (product s.ac m).toNat = p := (toNat_product s.ac m).trans hp.symm
  rw [setMdResult, mdZero_halves, mdNegative_high, extractLsb'_high_eq_ofNat]
  rfl

/-! ## The statements -/

/-- Settles O9: FETCH, and the ALU's outputs for `00:000`. -/
theorem addLeavesSumAndCarry : Obligations.AddLeavesSumAndCarry :=
  ⟨fetchRuns .add, fun _ s m hbus hm => execAluMemory_of_alu hbus hm (alu_add s.ac m)⟩

/-- Settles O10: FETCH, and the ALU's outputs for `00:001`. -/
theorem subLeavesDifferenceAndNoBorrow : Obligations.SubLeavesDifferenceAndNoBorrow :=
  ⟨fetchRuns .sub, fun _ s m hbus hm => execAluMemory_of_alu hbus hm (alu_sub s.ac m)⟩

/-- Settles O11: FETCH, the bound of the product, and what the unit's result leaves of it. -/
theorem multLeavesTheExactProduct : Obligations.MultLeavesTheExactProduct := by
  refine ⟨fetchRuns .mult, fun a s m p hbus hm hp => ⟨hp ▸ word_mul_word_le s.ac m, ?_⟩⟩
  rw [exec, execMult, withMemOperand_of_memRead hbus hm]
  exact congrArg (fun t => Host.Outcome.next (endInstr 22 t)) (setMdResult_product (s := setOperand (zext16 a) m s) hp)

/-- Settles O16: FETCH, and the ALU's outputs for `01:000`. -/
theorem andLeavesTheConjunction : Obligations.AndLeavesTheConjunction :=
  ⟨fetchRuns .and, fun _ s m hbus hm => execAluMemory_of_alu hbus hm (alu_and s.ac m)⟩

/-- Settles O17: FETCH, and the ALU's outputs for `01:001`. -/
theorem orLeavesTheDisjunction : Obligations.OrLeavesTheDisjunction :=
  ⟨fetchRuns .or, fun _ s m hbus hm => execAluMemory_of_alu hbus hm (alu_or s.ac m)⟩

/-- Settles O18: FETCH, and the ALU's outputs for `01:010`. -/
theorem xorLeavesTheDifferenceOfBits : Obligations.XorLeavesTheDifferenceOfBits :=
  ⟨fetchRuns .xor, fun _ s m hbus hm => execAluMemory_of_alu hbus hm (alu_xor s.ac m)⟩

/-- Settles O19: FETCH, and the ALU's outputs for `10:000`, the shift in closed form. -/
theorem shlShiftsLeftByTheLowFourBits : Obligations.ShlShiftsLeftByTheLowFourBits := by
  refine ⟨fetchRuns .shl, fun a s r hr => ?_⟩
  have hshift : sll s.ac ((zext16 a).setWidth 4) = r := by
    rw [hr, sll_eq_sllClosed, sllClosed, toNat_amount_zext16]
  rw [exec, execShl, shiftOperand, aluInstr, alu_sll hshift, toNat_zext16]
  rfl

/-- Settles O20: FETCH, and the ALU's outputs for `10:001`, the shift in closed form and its sign. -/
theorem shrShiftsRightByTheLowFourBits : Obligations.ShrShiftsRightByTheLowFourBits := by
  refine ⟨fetchRuns .shr, fun a s r hr => ?_⟩
  have hshift : lsr s.ac ((zext16 a).setWidth 4) = r := by
    rw [hr, lsr_eq_lsrClosed, lsrClosed, toNat_amount_zext16]
  have hsign : r.getLsbD 15 = (decide (a.toNat % 16 = 0) && s.ac.getLsbD 15) := by
    rw [← hshift, getLsbD_lsr_15, toNat_amount_zext16]
  rw [exec, execShr, shiftOperand, aluInstr, alu_lsr hshift, toNat_zext16, hsign]
  rfl

/-- Settles O6: FETCH, and the end of the cycle as the whole meaning. -/
theorem nopDoesNothingButFetch : Obligations.NopDoesNothingButFetch :=
  ⟨fetchRuns .nop, fun _ _ => rfl⟩

/-- Settles O7: FETCH, and the memory operand on a free bus. -/
theorem loadPutsTheWordInAc : Obligations.LoadPutsTheWordInAc := by
  refine ⟨fetchRuns .load, fun a s hbus => ?_⟩
  rw [exec, execLoad, withMemOperand_of_memRead hbus rfl]
  rfl

/-- Settles O13: FETCH, the range of a zero-extended operand, and the meaning. -/
theorem jumpLoadsPcWithTheOperand : Obligations.JumpLoadsPcWithTheOperand :=
  ⟨fetchRuns .jump, fun a _ => ⟨toNat_zext16_le a, rfl⟩⟩

/-- Settles O14: FETCH, and the meaning, which itself asks for the flag. -/
theorem jzJumpsExactlyWhenZIsSet : Obligations.JzJumpsExactlyWhenZIsSet :=
  ⟨fetchRuns .jz, fun _ _ => rfl⟩

/-- Settles O15: FETCH, the range of a zero-extended operand, and the meaning. -/
theorem loadiPutsTheOperandInAc : Obligations.LoadiPutsTheOperandInAc :=
  ⟨fetchRuns .loadi, fun a _ => ⟨toNat_zext16_le a, rfl⟩⟩

/-- Settles O21: FETCH, and RUN cleared before the end of the cycle. -/
theorem haltClearsRun : Obligations.HaltClearsRun :=
  ⟨fetchRuns .halt, fun _ _ => rfl⟩

end Sys2Proof.Laws
end

section
/-! PROOFS. The divide-by-zero record (60_exceptions.md R366, R367): what an instruction does to ERR and that it reads
nothing of it, what a clock does to ERR, and the statement made from them. -/

namespace Sys2Proof.Laws

open Sys2Proof.Machine

/-! ## ERR and the record in it -/

/-- The state with another ERR. -/
abbrev withErr (e : Word) (s : State) : State := { s with err := e }

/-- The instruction is a DIV and its divisor word in memory is 0 (R366). -/
def dividesByZero : Instr → State → Bool
  | .div a, s => memRead s.map s.mem (effectiveAddr a) == 0
  | _, _ => false

/-- ERR after an instruction that finds `e` in it (R366). -/
def errAfter (i : Instr) (s : State) (e : Word) : Word := if dividesByZero i s then e ||| 0x0001#16 else e

theorem dividesByZero_instrOfKind (k : Kind) (a : Operand) (s : State) :
    dividesByZero (instrOfKind k a) s = true ↔ k = .div ∧ memRead s.map s.mem (zext16 a) = 0 := by
  cases k <;> simp [dividesByZero, instrOfKind, effectiveAddr]

theorem kindOf_eq_iff (op : Opcode) (k : Kind) : kindOf op = k ↔ op = opcodeOfKind k :=
  ⟨fun h => h ▸ (opcodeOfKind_kindOf op).symm, fun h => h ▸ kindOf_opcodeOfKind k⟩

/-- A word divides by zero when its opcode is 6 and the word at its operand is 0. -/
theorem dividesByZero_decodeWord (w : Word) (s : State) :
    dividesByZero (decodeWord w) s = true ↔
      opcodeField w = 0x6 ∧ memRead s.map s.mem (zext16 (operandField w)) = 0 := by
  rw [decodeWord, dividesByZero_instrOfKind, kindOf_eq_iff]
  rfl

theorem errAfter_decodeWord (w : Word) (s : State) (e : Word) :
    errAfter (decodeWord w) s e =
      if opcodeField w = 0x6 ∧ memRead s.map s.mem (zext16 (operandField w)) = 0 then e ||| 1 else e :=
  if_congr (dividesByZero_decodeWord w s) rfl rfl

theorem errAfter_div_zero {a : Operand} {s : State} (hm : memRead s.map s.mem (effectiveAddr a) = 0) (e : Word) :
    errAfter (.div a) s e = e ||| 0x0001#16 := if_pos (beq_iff_eq.mpr hm)

theorem errAfter_div_nonzero {a : Operand} {s : State} (hm : memRead s.map s.mem (effectiveAddr a) ≠ 0) (e : Word) :
    errAfter (.div a) s e = e := if_neg (mt beq_iff_eq.mp hm)

/-- The record only ever adds to ERR, so a bit 0 once set is kept. -/
theorem getLsbD_zero_of_record {e : Word} (p : Prop) [Decidable p] (h : e.getLsbD 0 = true) :
    (if p then e ||| 0x0001#16 else e).getLsbD 0 = true := by
  split
  · simp
  · exact h

/-! ## Instructions: ERR is written by DIV alone and read by none (R367) -/

/-- A memory operand is the same word whatever ERR holds. -/
theorem withMemOperand_withErr {a : Operand} {s t : State} {e e' : Word} {k : Word → State → Answer}
    (hk : ∀ u, k (memRead s.map s.mem (effectiveAddr a)) u = .next t →
      k (memRead s.map s.mem (effectiveAddr a)) (withErr e u) = .next (withErr e' t))
    (h : withMemOperand a s k = .next t) : withMemOperand a (withErr e s) k = .next (withErr e' t) := by
  obtain ⟨hbus, hnext⟩ := withMemOperand_next h
  rw [withMemOperand_free (s := withErr e s) hbus]
  exact hk _ hnext

theorem execAluMemory_withErr {op : AluOp} {fn : AluFn} {a : Operand} {s t : State} (e : Word)
    (h : execAluMemory op fn a s = .next t) : execAluMemory op fn a (withErr e s) = .next (withErr e t) :=
  withMemOperand_withErr (fun _ hnext => by cases hnext; rfl) h

theorem execLoad_withErr {a : Operand} {s t : State} (e : Word) (h : execLoad a s = .next t) :
    execLoad a (withErr e s) = .next (withErr e t) :=
  withMemOperand_withErr (fun _ hnext => by cases hnext; rfl) h

theorem execMult_withErr {a : Operand} {s t : State} (e : Word) (h : execMult a s = .next t) :
    execMult a (withErr e s) = .next (withErr e t) :=
  withMemOperand_withErr (fun _ hnext => by cases hnext; rfl) h

theorem execStore_withErr {a : Operand} {s t : State} (e : Word) (h : execStore a s = .next t) :
    execStore a (withErr e s) = .next (withErr e t) := by
  obtain ⟨hbus, hnext⟩ := busWrite_next h
  cases hnext
  exact busWrite_free (s := withErr e (setOperand (effectiveAddr a) s.ac s)) hbus _ _ _

/-- DIV's branch depends on the divisor alone, and only its zero branch touches ERR. -/
theorem execDiv_withErr {a : Operand} {s t : State} (e : Word) (h : execDiv a s = .next t) :
    execDiv a (withErr e s) = .next (withErr (errAfter (.div a) s e) t) := by
  refine withMemOperand_withErr (fun u hnext => ?_) h
  by_cases hm : memRead s.map s.mem (effectiveAddr a) = 0
  · rw [if_pos hm] at hnext
    cases hnext
    rw [if_pos hm, errAfter_div_zero hm]
    rfl
  · rw [if_neg hm] at hnext
    cases hnext
    rw [if_neg hm, errAfter_div_nonzero hm]
    rfl

/-- With another ERR an instruction does the same to every other field, and to ERR what R366 says. -/
theorem exec_withErr {i : Instr} {s t : State} (e : Word) (h : exec i s = .next t) :
    exec i (withErr e s) = .next (withErr (errAfter i s e) t) := by
  cases i with
  | div a => exact execDiv_withErr e h
  | mult a => exact execMult_withErr e h
  | load a => exact execLoad_withErr e h
  | store a => exact execStore_withErr e h
  | add a | sub a | and a | or a | xor a => exact execAluMemory_withErr e h
  | _ => cases h; rfl

/-- ERR after an instruction: an instruction with its own ERR put back is the instruction itself. -/
theorem exec_err {i : Instr} {s t : State} (h : exec i s = .next t) : t.err = errAfter i s s.err := by
  have hsame : exec i s = .next (withErr (errAfter i s s.err) t) := exec_withErr s.err h
  have ht : t = withErr (errAfter i s s.err) t := Host.Outcome.next.inj (h.symm.trans hsame)
  exact congrArg State.err ht

theorem exec_keeps_record {i : Instr} {s t : State} (h : exec i s = .next t) (hset : s.err.getLsbD 0 = true) :
    t.err.getLsbD 0 = true := by
  rw [exec_err h, errAfter]
  exact getLsbD_zero_of_record _ hset

/-! ## Clocks -/

/-- Only the sequencer in ERROR writes ERR (44_cpu_cycle.md R292). -/
theorem clockEdge_err (rdata : Word) (s : State) :
    (clockEdge rdata s).err = if (fsmOutputs s.fsm).mdError then s.err ||| 0x0001#16 else s.err := rfl

/-- A clock's write changes memory at most. -/
theorem clockWrite_next {s t : State} {k : State → Answer} (h : clockWrite s k = .next t) :
    ∃ mem, k { s with mem := mem } = .next t := by
  unfold clockWrite at h
  split at h
  · exact ⟨_, (busWrite_next h).2⟩
  · exact ⟨s.mem, h⟩

/-- A clock's read changes nothing. -/
theorem clockRead_next {s t : State} {k : Word → State → Answer} (h : clockRead s k = .next t) :
    ∃ rdata, k rdata s = .next t := by
  unfold clockRead at h
  split at h
  · exact ⟨_, (busRead_next h).2⟩
  · exact ⟨s.mdr, h⟩

/-- If a running clock answers a next state, it is the clock edge's, after a write to memory at most. -/
theorem clock_running_next {s t : State} (hrun : s.run = true) (h : clock s = .next t) :
    ∃ mem rdata, t = clockEdge rdata { s with mem := mem } := by
  rw [clock, if_pos hrun] at h
  obtain ⟨mem, hread⟩ := clockWrite_next h
  obtain ⟨rdata, hedge⟩ := clockRead_next hread
  exact ⟨mem, rdata, (Host.Outcome.next.inj hedge).symm⟩

theorem clock_keeps_record {s t : State} (h : clock s = .next t) (hset : s.err.getLsbD 0 = true) :
    t.err.getLsbD 0 = true := by
  cases hrun : s.run with
  | false =>
    rw [clock_halted hrun] at h
    cases h
    exact hset
  | true =>
    obtain ⟨mem, rdata, rfl⟩ := clock_running_next hrun h
    rw [clockEdge_err]
    exact getLsbD_zero_of_record _ hset

theorem clocksToEnd_keeps_record {fuel : Nat} {s t : State} (h : clocksToEnd fuel s = .next t)
    (hset : s.err.getLsbD 0 = true) : t.err.getLsbD 0 = true := by
  induction fuel generalizing s with
  | zero =>
    cases h
    exact hset
  | succ fuel ih =>
    cases hclock : clock s with
    | next u =>
      have hu := clock_keeps_record hclock hset
      rw [clocksToEnd_succ_next hclock] at h
      split at h
      · cases h
        exact hu
      · exact ih h hu
    | fault f => cases f
    | refused r => simp [clocksToEnd, hclock] at h

/-! ## Steps -/

theorem step_keeps_record {s t : State} (h : step s = .next t) (hset : s.err.getLsbD 0 = true) :
    t.err.getLsbD 0 = true := by
  obtain ⟨_, -, hexec⟩ | ⟨-, -, rfl⟩ | ⟨-, -, -, -, hexec⟩ | ⟨-, -, -, hclocks⟩ := step_cases h
  · exact exec_keeps_record hexec hset
  · exact hset
  · exact exec_keeps_record hexec hset
  · exact clocksToEnd_keeps_record hclocks hset

/-- ERR after the step of a ready state: that of the instruction fetched, since FETCH touches neither ERR nor memory. -/
theorem step_ready_err {s t : State} (hready : Ready s) (h : step s = .next t) :
    t.err = if opcodeField (memRead s.map s.mem s.pc) = 0x6 ∧
        memRead s.map s.mem (zext16 (operandField (memRead s.map s.mem s.pc))) = 0
      then s.err ||| 1 else s.err := by
  rw [step_ready hready] at h
  rw [exec_err h, errAfter_decodeWord]

@[simp] theorem systemReset_err (s : State) : (systemReset s).err = 0 := rfl

/-! ## The statement -/

/-- Settles O56: the record kept by every step, ERR after the instruction fetched, ERR after a system reset, and the
instruction run with another ERR. -/
theorem divideByZeroRecordIsSticky : Obligations.DivideByZeroRecordIsSticky :=
  ⟨fun _ _ => step_keeps_record, fun _ _ => step_ready_err, systemReset_err,
    fun _ _ _ e h => ⟨_, exec_withErr e h, rfl⟩⟩

end Sys2Proof.Laws
end

section
/-! PROOFS. The controls of the ALU (42_alu.md R201): decoding inverts encoding on them too, so it does over both formats;
and the statements of this family made from it. -/

namespace Sys2Proof.Laws

/-! ## Decoding an ALU control (R201) -/

theorem wellFormed_decodeAluCtrl (ctrl : AluCtrl) : (decodeAluCtrl ctrl).wellFormed = true := by
  revert ctrl; decide

theorem encode_decodeAluCtrl (ctrl : AluCtrl) : encode (decodeAluCtrl ctrl) = .aluCtrl ctrl := by
  revert ctrl; decide

/-- An instruction whose function code has the bits of its row decodes from its control. -/
theorem eq_decodeAluCtrl_of_encode_eq_aluCtrl {i : Instr} {ctrl : AluCtrl} (hwf : i.wellFormed = true)
    (h : encode i = .aluCtrl ctrl) : i = decodeAluCtrl ctrl := by
  cases i with
  | aluAdd fn | aluSub fn | aluAnd fn | aluOr fn | aluXor fn | aluNot fn | aluUnitUnused fn =>
    cases h
    revert fn
    decide
  | _ => cases h <;> rfl

/-! ## The statements -/

/-- Settles O3: a control's decoding is well formed and encodes back, and nothing else well formed encodes to it. -/
theorem everyAluControlIsExactlyOneRow : Obligations.EveryAluControlIsExactlyOneRow := by
  refine fun ctrl i => ⟨fun ⟨hwf, henc⟩ => eq_decodeAluCtrl_of_encode_eq_aluCtrl hwf henc, ?_⟩
  rintro rfl
  exact ⟨wellFormed_decodeAluCtrl ctrl, encode_decodeAluCtrl ctrl⟩

/-- Settles O1: a well-formed instruction encodes to a word or to a control, and each format's decoder inverts it. -/
theorem decodeOfEncodeIsTheInstruction : Obligations.DecodeOfEncodeIsTheInstruction := by
  intro i hwf
  cases henc : encode i with
  | word w => exact (eq_decodeWord_of_encode_eq_word henc).symm
  | aluCtrl ctrl => exact (eq_decodeAluCtrl_of_encode_eq_aluCtrl hwf henc).symm

/-- Settles O5: each word is its opcode and operand joined, and each control one of the 32 codes. -/
theorem writtenOutWordsDecode : Obligations.WrittenOutWordsDecode :=
  ⟨decodeWord_wordOf .nop 0xABC, decodeWord_wordOf .load 0x020, decodeWord_wordOf .store 0x021,
    decodeWord_wordOf .add 0x030, decodeWord_wordOf .sub 0x030, decodeWord_wordOf .mult 0x010,
    decodeWord_wordOf .div 0x011, decodeWord_wordOf .jump 0xABC, decodeWord_wordOf .jz 0x008,
    decodeWord_wordOf .loadi 5, decodeWord_wordOf .and 0x030, decodeWord_wordOf .or 0x030,
    decodeWord_wordOf .xor 0x013, decodeWord_wordOf .shl 4, decodeWord_wordOf .shr 1, decodeWord_wordOf .halt 0,
    rfl, rfl, rfl, rfl⟩

end Sys2Proof.Laws
end

section
/-! PROOFS. More of the primitives (40_primitives.md): the ripple adder in closed form, the lines of the 4-to-16 decoder,
the gates and the multiplexer netlists; and the statements of this family made from them. -/

namespace Sys2Proof.Laws

open Sys2Proof.Machine

/-! ## The ripple adder (R124) and the arithmetic unit (42_alu.md R181, R182) -/

theorem toNat_rippleAdd16_carry (a b : Word) (cin : Signal) :
    (rippleAdd16 a b cin).2.toNat = (a.toNat + b.toNat + cin.toNat) / 65536 := by
  have hsum := toNat_rippleAdd16 a b cin
  have hword := (rippleAdd16 a b cin).1.isLt
  omega

/-! ## The 4-to-16 decoder (R131 to R133) -/

theorem decoderLine_eq_true_iff (x : BitVec 4) (k : Nat) : decoderLine x k = true ↔ x.toNat = k := beq_iff_eq

/-- The AND of the four input bits, each taken as `k` has it, is 1 for the input `k` alone. -/
theorem decoderLineGates_eq (x : BitVec 4) : ∀ k < 16, decoderLineGates x k = decoderLine x k := by
  revert x; decide

/-- Line `x` alone is 1, so the packed lines are the number whose one binary digit is `x`. -/
theorem toNat_decoder4to16 (x : BitVec 4) : (decoder4to16 x).toNat = 2 ^ x.toNat := by
  have hx : x.toNat < 16 := x.isLt
  refine Nat.eq_of_testBit_eq fun i => ?_
  rw [BitVec.testBit_toNat, decoder4to16, getLsbD_wordOfLanes, Nat.testBit_two_pow, decoderLine]
  by_cases h : x.toNat = i
  · simp [h, h ▸ hx]
  · simp [h]

theorem getLsbD_decoder4to16 (x : BitVec 4) {k : Nat} (hk : k < 16) : (decoder4to16 x).getLsbD k = decoderLine x k := by
  rw [decoder4to16, getLsbD_wordOfLanes, decide_eq_true hk, Bool.true_and]

/-! ## The multiplexer netlists (R130) -/

theorem mux2Gates_eq (in0 in1 sel : Signal) : mux2Gates in0 in1 sel = mux2 in0 in1 sel := by
  cases sel <;> simp [mux2Gates, mux2, and2, or2, gateNot]

/-- The tree of 2:1 multiplexers picks by the two select bits, the less significant first. -/
theorem mux4Gates_eq (in0 in1 in2 in3 : Signal) (sel : BitVec 2) :
    mux4Gates in0 in1 in2 in3 sel = mux4 in0 in1 in2 in3 sel := by
  simp only [mux4Gates, mux2Gates_eq]
  match sel with
  | 0b00#2 | 0b01#2 | 0b10#2 | 0b11#2 => rfl

theorem mux8Gates_eq (in0 in1 in2 in3 in4 in5 in6 in7 : Signal) (sel : BitVec 3) :
    mux8Gates in0 in1 in2 in3 in4 in5 in6 in7 sel = mux8 in0 in1 in2 in3 in4 in5 in6 in7 sel := by
  simp only [mux8Gates, mux2Gates_eq, mux4Gates_eq]
  match sel with
  | 0b000#3 | 0b001#3 | 0b010#3 | 0b011#3 | 0b100#3 | 0b101#3 | 0b110#3 | 0b111#3 => rfl

/-! ## The statements -/

/-- Settles O27: the sum and the carry of the ripple adder, and of the arithmetic unit built on it. -/
theorem rippleAdderAndArithUnitAreArithmetic : Obligations.RippleAdderAndArithUnitAreArithmetic :=
  ⟨fun a b cin => ⟨rippleAdd16_sum a b cin, toNat_rippleAdd16_carry a b cin⟩,
    fun a b => ⟨Prod.ext (arithUnit_sum a b) (arithUnit_carry a b false),
      Prod.ext (arithUnit_difference a b) (arithUnit_carry a b true)⟩⟩

/-- Settles O32: the lines, the lines packed, and the netlist. -/
theorem decoderIsOneHot : Obligations.DecoderIsOneHot := fun x =>
  ⟨fun k hk => ⟨decoderLine_eq_true_iff x k, decoderLineGates_eq x k hk⟩, toNat_decoder4to16 x,
    fun _ hk => getLsbD_decoder4to16 x hk⟩

/-- Settles O34: the gates at both values of the connected input, and the three netlists. -/
theorem unconnectedInputsReadZero : Obligations.UnconnectedInputsReadZero :=
  ⟨by decide, fun i0 i1 i2 i3 i4 i5 i6 i7 =>
    ⟨mux2Gates_eq i0 i1, mux4Gates_eq i0 i1 i2 i3, mux8Gates_eq i0 i1 i2 i3 i4 i5 i6 i7⟩⟩

end Sys2Proof.Laws
end

section
/-! PROOFS. More of the shift block (41_barrel_shifter.md): the arithmetic shift and the two rotations as cascades, and the
engine that each mode picks; and the statements of this family made from them. -/

namespace Sys2Proof.Laws

open Sys2Proof.Machine

/-- Each lane of a stage is a choice by the stage's bit of the amount (R151). -/
theorem getLsbD_shiftStage (amt : ShiftAmount) (k : Nat) (t : Word) (shifted : Nat → Signal) {i : Nat} (hi : i < 16) :
    (shiftStage amt k t shifted).getLsbD i = if amt.getLsbD k then shifted i else t.getLsbD i := by
  rw [shiftStage, getLsbD_wordOfLanes, decide_eq_true hi, Bool.true_and, mux2]

/-! ## The arithmetic right shift (R155) -/

/-- Stage `k` of ASR shifts by `2^k` or not at all, as long as the word still has the captured sign. -/
theorem shiftStage_asrLane (amt : ShiftAmount) (k : Nat) (t : Word) :
    shiftStage amt k t (asrLane t.msb k t) = t.sshiftRight (2 ^ k * (amt.getLsbD k).toNat) := by
  refine word_ext fun i hi => ?_
  have hlane : asrLane t.msb k t i = (t.sshiftRight (2 ^ k)).getLsbD i := by
    have hin : i + 2 ^ k ≤ 15 ↔ 2 ^ k + i < 16 := by omega
    rw [BitVec.getLsbD_sshiftRight, decide_eq_false hi.not_ge, Bool.not_false, Bool.true_and, asrLane, stageDistance,
      if_congr hin rfl rfl, Nat.add_comm i]
  rw [getLsbD_shiftStage amt k t _ hi, hlane]
  cases amt.getLsbD k <;> simp

/-- The first `m` stages of ASR shift by the amount's low `m` bits, and keep the sign. -/
theorem cascade_asrLane (amt : ShiftAmount) (x : Word) (m : Nat) :
    cascade amt (asrLane x.msb) x m = x.sshiftRight (amt.toNat % 2 ^ m) := by
  induction m with
  | zero => simp [cascade, Nat.mod_one]
  | succ m ih =>
    have hsign : x.msb = (x.sshiftRight (amt.toNat % 2 ^ m)).msb := BitVec.msb_sshiftRight.symm
    rw [cascade, ih, hsign, shiftStage_asrLane, amount_mod_succ, BitVec.sshiftRight_add]

theorem asr_eq_sshiftRight (x : Word) (amt : ShiftAmount) : asr x amt = x.sshiftRight amt.toNat := by
  rw [asr, ← BitVec.msb_eq_getLsbD_last x, cascade_asrLane, Nat.mod_eq_of_lt amt.isLt]

theorem signed16_eq_toInt (x : Word) : signed16 x = x.toInt := by
  rw [signed16, BitVec.toInt_eq_msb_cond, BitVec.msb_eq_getLsbD_last]
  rfl

/-- ASR as a number: the quotient of the signed value by a power of two, rounded down. -/
theorem asr_eq_asrClosed (x : Word) (amt : ShiftAmount) : asr x amt = asrClosed x amt := by
  rw [asr_eq_sshiftRight, asrClosed, signed16_eq_toInt, BitVec.sshiftRight_eq, Int.shiftRight_eq_div_pow, Nat.cast_pow]
  rfl

/-! ## The rotations (R156, R157) -/

/-- The distance moved after stages 0 to `k` is the amount's low `k + 1` bits (R152). -/
theorem stageTotal_eq (amt : ShiftAmount) (k : Nat) : stageTotal amt k = amt.toNat % 2 ^ (k + 1) := by
  induction k with
  | zero =>
    rw [amount_mod_succ, stageTotal]
    cases amt.getLsbD 0 <;> simp [Nat.mod_one]
  | succ k ih =>
    rw [amount_mod_succ, stageTotal, ih, stageDistance]
    cases amt.getLsbD (k + 1) <;> simp

/-- The first `m` stages of ROL rotate by the amount's low `m` bits: the vacated lanes are filled with those that have left
at the top. -/
theorem cascade_rolLane (amt : ShiftAmount) (x : Word) (m : Nat) {i : Nat} (hi : i < 16) :
    (cascade amt (rolLane x amt) x m).getLsbD i = x.getLsbD ((i + 16 - amt.toNat % 2 ^ m) % 16) := by
  induction m generalizing i with
  | zero => simp [cascade, Nat.mod_one, Nat.mod_eq_of_lt hi]
  | succ m ih =>
    rw [cascade, getLsbD_shiftStage _ _ _ _ hi, rolLane, stageTotal_eq, stageDistance, amount_mod_succ]
    cases amt.getLsbD m with
    | false => simpa using ih hi
    | true =>
      by_cases hlane : 2 ^ m ≤ i
      · have hsource : i - 2 ^ m + 16 - amt.toNat % 2 ^ m = i + 16 - (amt.toNat % 2 ^ m + 2 ^ m) := by omega
        simp [hlane, ih (show i - 2 ^ m < 16 by omega), hsource]
      · simp [hlane]

/-- The first `m` stages of ROR rotate by the amount's low `m` bits. -/
theorem cascade_rorLane (amt : ShiftAmount) (x : Word) (m : Nat) {i : Nat} (hi : i < 16) :
    (cascade amt (rorLane x amt) x m).getLsbD i = x.getLsbD ((i + amt.toNat % 2 ^ m) % 16) := by
  induction m generalizing i with
  | zero => simp [cascade, Nat.mod_one, Nat.mod_eq_of_lt hi]
  | succ m ih =>
    rw [cascade, getLsbD_shiftStage _ _ _ _ hi, rorLane, stageTotal_eq, stageDistance, amount_mod_succ]
    cases amt.getLsbD m with
    | false => simpa using ih hi
    | true =>
      by_cases hlane : i + 2 ^ m ≤ 15
      · have hsource : i + 2 ^ m + amt.toNat % 2 ^ m = i + (amt.toNat % 2 ^ m + 2 ^ m) := by omega
        simp [hlane, ih (show i + 2 ^ m < 16 by omega), hsource]
      · simp [hlane]

theorem rol_eq_rolClosed (x : Word) (amt : ShiftAmount) : rol x amt = rolClosed x amt :=
  word_ext fun i hi => by
    rw [rol, cascade_rolLane amt x 4 hi, Nat.mod_eq_of_lt amt.isLt, rolClosed, getLsbD_wordOfLanes, decide_eq_true hi,
      Bool.true_and]

theorem ror_eq_rorClosed (x : Word) (amt : ShiftAmount) : ror x amt = rorClosed x amt :=
  word_ext fun i hi => by
    rw [ror, cascade_rorLane amt x 4 hi, Nat.mod_eq_of_lt amt.isLt, rorClosed, getLsbD_wordOfLanes, decide_eq_true hi,
      Bool.true_and]

/-! ## The mode (R161) and amount 0 (R158) -/

theorem shiftUnit_asr (x : Word) (amt : ShiftAmount) : shiftUnit x amt 0b010 = asr x amt :=
  word_ext fun i hi => by simp [shiftUnit, mux8, hi]

theorem shiftUnit_rol (x : Word) (amt : ShiftAmount) : shiftUnit x amt 0b011 = rol x amt :=
  word_ext fun i hi => by simp [shiftUnit, mux8, hi]

theorem shiftUnit_ror (x : Word) (amt : ShiftAmount) : shiftUnit x amt 0b100 = ror x amt :=
  word_ext fun i hi => by simp [shiftUnit, mux8, hi]

theorem shiftUnit_unused101 (x : Word) (amt : ShiftAmount) : shiftUnit x amt 0b101 = 0 :=
  word_ext fun i hi => by simp [shiftUnit, mux8]

theorem shiftUnit_unused110 (x : Word) (amt : ShiftAmount) : shiftUnit x amt 0b110 = 0 :=
  word_ext fun i hi => by simp [shiftUnit, mux8]

theorem shiftUnit_unused111 (x : Word) (amt : ShiftAmount) : shiftUnit x amt 0b111 = 0 :=
  word_ext fun i hi => by simp [shiftUnit, mux8]

/-- With amount 0 every stage of every engine hands its word on. -/
theorem cascade_amount_zero (lane : Nat → Word → Nat → Signal) (x : Word) (m : Nat) : cascade 0 lane x m = x := by
  induction m with
  | zero => rfl
  | succ m ih =>
    refine word_ext fun i hi => ?_
    rw [cascade, getLsbD_shiftStage _ _ _ _ hi, ih]
    exact if_neg (by simp)

/-! ## The statements -/

/-- Settles O29: one equation for each engine. -/
theorem stagedShiftersAgreeWithClosedForms : Obligations.StagedShiftersAgreeWithClosedForms := fun x amt =>
  ⟨sll_eq_sllClosed x amt, lsr_eq_lsrClosed x amt, asr_eq_asrClosed x amt, rol_eq_rolClosed x amt,
    ror_eq_rorClosed x amt⟩

/-- Settles O30: one equation for each mode, and amount 0 for any cascade. -/
theorem shiftModePicksTheEngine : Obligations.ShiftModePicksTheEngine := fun x amt =>
  ⟨shiftUnit_sll x amt, shiftUnit_lsr x amt, shiftUnit_asr x amt, shiftUnit_rol x amt, shiftUnit_ror x amt,
    shiftUnit_unused101 x amt, shiftUnit_unused110 x amt, shiftUnit_unused111 x amt,
    cascade_amount_zero _ x 4, cascade_amount_zero _ x 4, cascade_amount_zero _ x 4, cascade_amount_zero _ x 4,
    cascade_amount_zero _ x 4⟩

end Sys2Proof.Laws
end

section
/-! PROOFS. The ALU at its own ports (42_alu.md R198 to R202; log 4): any control run there changes the control wires alone,
the outputs follow from the result that the control picks, and the statements of this family made from these. -/

namespace Sys2Proof.Laws

open Sys2Proof.Machine

/-! ## Running a control -/

/-- An instruction that encodes to a control puts that control on the wires, and does nothing else. -/
theorem exec_of_encode_eq_aluCtrl {i : Instr} {ctrl : AluCtrl} (h : encode i = .aluCtrl ctrl) (s : State) :
    exec i s = .next (portsWith ctrl s) := by
  cases i <;> cases h <;> rfl

/-- Whichever control is asked, running it presents it. -/
theorem exec_decodeAluCtrl (ctrl : AluCtrl) (s : State) : exec (decodeAluCtrl ctrl) s = .next (portsWith ctrl s) :=
  exec_of_encode_eq_aluCtrl (encode_decodeAluCtrl ctrl) s

/-! ## The outputs of a control on the wires -/

/-- The result that a control picks gives all four outputs (R203 to R205). -/
theorem aluPortOut_portsWith {op : AluOp} {fn : AluFn} {s : State} {r : Word}
    (hr : (alu s.aluPort.a s.aluPort.b op fn).result = r) :
    aluPortOut (portsWith (aluCtrlOf op fn) s) = outputsOf r (fn.getLsbD 0) s :=
  (aluPortOut_presentAluCtrl op fn s).trans (alu_of_result hr)

/-- The arithmetic rows: a sum or a difference by `fn[0]`, whatever the other two bits are (R201). -/
theorem aluPortOut_arith {fn : AluFn} {sub : Signal} {s : State} {r : Word} (hsub : fn.getLsbD 0 = sub)
    (hr : (arithUnit s.aluPort.a s.aluPort.b sub).1 = r) :
    aluPortOut (portsWith (aluCtrlOf 0b00 fn) s) = outputsOf r sub s := by
  subst hsub
  exact aluPortOut_portsWith ((alu_result_arith _ _ fn).trans hr)

/-- The logical rows: the mode is the low two bits of `fn`, and its bit 0 is the carry's operation (R205). -/
theorem aluPortOut_logic {fn : AluFn} {mode : BitVec 2} {s : State} {r : Word} (hmode : fn.setWidth 2 = mode)
    (hr : logicUnit s.aluPort.a s.aluPort.b mode = r) :
    aluPortOut (portsWith (aluCtrlOf 0b01 fn) s) = outputsOf r (mode.getLsbD 0) s := by
  subst hmode
  have hcarry : (fn.setWidth 2).getLsbD 0 = fn.getLsbD 0 := BitVec.getLsbD_setWidth 2 fn 0
  rw [hcarry]
  exact aluPortOut_portsWith ((alu_result_logic _ _ fn).trans hr)

/-- The shift rows: the amount is the low four bits of operand B. -/
theorem aluPortOut_shift {fn : AluFn} {s : State} {r : Word}
    (hr : shiftUnit s.aluPort.a (s.aluPort.b.setWidth 4) fn = r) :
    aluPortOut (portsWith (aluCtrlOf 0b10 fn) s) = outputsOf r (fn.getLsbD 0) s :=
  aluPortOut_portsWith ((alu_result_shift _ _ fn).trans hr)

/-- The multiplexer's fourth input is wired to 0 (40_primitives.md R128). -/
theorem mux3Word_unused (x y z : Word) : mux3Word x y z 0b11 = 0 :=
  word_ext fun i _ => by simp [mux3Word, mux3]

/-- The unused unit gives 0 (R202). -/
theorem aluPortOut_unusedUnit (fn : AluFn) (s : State) :
    aluPortOut (portsWith (aluCtrlOf 0b11 fn) s) = outputsOf 0 (fn.getLsbD 0) s :=
  aluPortOut_portsWith (mux3Word_unused _ _ _)

/-! ## The statements -/

/-- Settles O23: the arithmetic unit's result for either value of `fn[0]`. -/
theorem aluPortAddsAndSubtracts : Obligations.AluPortAddsAndSubtracts := fun _ _ =>
  ⟨fun hsub => ⟨rfl, aluPortOut_arith hsub (arithUnit_sum _ _)⟩,
    fun hsub => ⟨rfl, aluPortOut_arith hsub (arithUnit_difference _ _)⟩⟩

/-- Settles O24: the logical unit's result for each mode. -/
theorem aluPortLogicalRows : Obligations.AluPortLogicalRows := fun _ _ =>
  ⟨fun hmode => ⟨rfl, aluPortOut_logic hmode (logicUnit_and _ _)⟩,
    fun hmode => ⟨rfl, aluPortOut_logic hmode (logicUnit_or _ _)⟩,
    fun hmode => ⟨rfl, aluPortOut_logic hmode (logicUnit_xor _ _)⟩,
    fun hmode => ⟨rfl, aluPortOut_logic hmode (logicUnit_not _ _)⟩⟩

/-- Settles O25: the engine picked by each mode, in closed form, and zero for the unused modes and the unused unit. -/
theorem aluPortShiftAndUnusedRows : Obligations.AluPortShiftAndUnusedRows := by
  intro fn s amt hamt
  have hwires : s.aluPort.b.setWidth 4 = amt := hamt.symm
  subst hwires
  refine ⟨⟨rfl, ?_⟩, ⟨rfl, ?_⟩, ⟨rfl, ?_⟩, ⟨rfl, ?_⟩, ⟨rfl, ?_⟩, ⟨rfl, ?_⟩, ⟨rfl, ?_⟩, ⟨rfl, ?_⟩, ⟨rfl, ?_⟩⟩
  · exact aluPortOut_shift (fn := 0b000) ((shiftUnit_sll _ _).trans (sll_eq_sllClosed _ _))
  · exact aluPortOut_shift (fn := 0b001) ((shiftUnit_lsr _ _).trans (lsr_eq_lsrClosed _ _))
  · exact aluPortOut_shift (fn := 0b010) ((shiftUnit_asr _ _).trans (asr_eq_asrClosed _ _))
  · exact aluPortOut_shift (fn := 0b011) ((shiftUnit_rol _ _).trans (rol_eq_rolClosed _ _))
  · exact aluPortOut_shift (fn := 0b100) ((shiftUnit_ror _ _).trans (ror_eq_rorClosed _ _))
  · exact aluPortOut_shift (fn := 0b101) (shiftUnit_unused101 _ _)
  · exact aluPortOut_shift (fn := 0b110) (shiftUnit_unused110 _ _)
  · exact aluPortOut_shift (fn := 0b111) (shiftUnit_unused111 _ _)
  · exact aluPortOut_unusedUnit fn s

end Sys2Proof.Laws
end

section
/-! PROOFS. Memory and bus (20_memory.md): what a sequence of writes leaves at an address, who may hold the bus, and the
clock as a user of it; and the statements of this family made from these. -/

namespace Sys2Proof.Laws

open Sys2Proof.Machine

/-! ## A sequence of writes (R63, R64) -/

/-- Memory after a sequence of writes, the first entry written first. -/
abbrev writeAll (map : List AddrRange) (mem : Memory) (writes : List (Word × Word)) : Memory :=
  writes.foldl (fun m e => memWrite map m e.1 e.2) mem

theorem writeAll_concat (map : List AddrRange) (mem : Memory) (writes : List (Word × Word)) (e : Word × Word) :
    writeAll map mem (writes ++ [e]) = memWrite map (writeAll map mem writes) e.1 e.2 := by
  rw [writeAll, List.foldl_append]
  rfl

theorem memoryWf_writeAll {map : List AddrRange} {mem : Memory} (writes : List (Word × Word))
    (hwf : memoryWf mem = true) : memoryWf (writeAll map mem writes) = true := by
  induction writes using List.reverseRecOn with
  | nil => exact hwf
  | append_singleton writes e ih => exact writeAll_concat map mem writes e ▸ memoryWf_memWrite _ _ ih

/-- A mapped word is the last one written there, or what memory held: the last write decides, or the writes before it. -/
theorem memRead_writeAll {map : List AddrRange} {mem : Memory} {a : Word} (writes : List (Word × Word))
    (hwf : memoryWf mem = true) (hmapped : mapped map a = true) :
    memRead map (writeAll map mem writes) a =
      ((writes.reverse.find? fun e => e.1 == a).map Prod.snd).getD (memRead map mem a) := by
  induction writes using List.reverseRecOn with
  | nil => rfl
  | append_singleton writes e ih =>
    rw [writeAll_concat, List.reverse_append, List.reverse_singleton, List.singleton_append, List.find?_cons]
    by_cases hlast : e.1 = a
    · subst hlast
      rw [beq_self_eq_true, memRead_memWrite_self hmapped e.2 (memoryWf_writeAll writes hwf)]
      rfl
    · rw [beq_false_of_ne hlast, memRead_memWrite_ne hlast, ih]

theorem memRead_unmapped {map : List AddrRange} {a : Word} (mem : Memory) (h : mapped map a = false) :
    memRead map mem a = 0xFFFF := by
  rw [memRead, h]
  rfl

theorem memWrite_unmapped {map : List AddrRange} {a : Word} (mem : Memory) (v : Word) (h : mapped map a = false) :
    memWrite map mem a v = mem := by
  rw [memWrite, h]
  rfl

/-! ## The bus (R66) -/

theorem busAcquire_free (id : BusMaster) : busAcquire id .free = (.heldBy id, true) := rfl

theorem busAcquire_held (id m : BusMaster) : busAcquire id (.heldBy m) = (.heldBy m, false) := rfl

theorem busRelease_holder (id : BusMaster) : busRelease id (.heldBy id) = .free := if_pos rfl

theorem busRelease_free (id : BusMaster) : busRelease id .free = .free := rfl

theorem busRelease_other {id m : BusMaster} (h : m ≠ id) : busRelease id (.heldBy m) = .heldBy m :=
  if_neg fun heq => h (BusOwner.heldBy.inj heq)

/-! ## The clock on the bus (44_cpu_cycle.md R292) -/

/-- A clock on a free bus always answers a next state, leaves the bus free, and has no part in the ALU's own ports. -/
theorem clock_answers {s : State} (hbus : s.bus = .free) :
    ∃ t, clock s = .next t ∧ t.bus = .free ∧ t.aluPort = s.aluPort := by
  cases hrun : s.run with
  | false => exact ⟨s, clock_halted hrun, hbus, rfl⟩
  | true =>
    refine ⟨_, clock_free hrun hbus, ?_⟩
    split
    · exact ⟨hbus, rfl⟩
    · exact ⟨hbus, rfl⟩

/-- A running clock whose control word reads or writes is refused while the bus is held (log 7). -/
theorem clock_held {s : State} (hbus : s.bus ≠ .free) (hrun : s.run = true)
    (haccess : (controlLines s).memRd = true ∨ (controlLines s).memWr = true) : clock s = .refused .busDenied := by
  rw [clock, if_pos hrun, clockWrite]
  by_cases hwrite : (controlLines s).memWr = true
  · rw [if_pos hwrite, busWrite_held hbus]
  · rw [if_neg hwrite, clockRead, if_pos (haccess.resolve_right hwrite), busRead_held hbus]

/-! ## The statements -/

/-- Settles O35: the read after any writes at a mapped and at an unmapped address, and the read through a free bus. -/
theorem readGivesTheLastWordWritten : Obligations.ReadGivesTheLastWordWritten := fun _ mem writes a hwf =>
  ⟨memRead_writeAll writes hwf, fun h => ⟨memRead_unmapped _ h, fun v => memWrite_unmapped mem v h⟩,
    fun _ k hbus => busRead_free hbus a k⟩

/-- Settles O36: acquire and release, and the clock on a free and on a held bus. -/
theorem busHasOneMasterAtATime : Obligations.BusHasOneMasterAtATime := by
  refine ⟨fun id m => ⟨busAcquire_free id, busAcquire_held id m, busRelease_holder id, busRelease_free id,
    busRelease_other⟩, fun s hbus => ?_, fun s => clock_held⟩
  obtain ⟨t, hclock, hfree, -⟩ := clock_answers hbus
  exact ⟨t, hclock, hfree⟩

end Sys2Proof.Laws
end

section
/-! PROOFS. More of the instructions (45_instructions.md): STORE, DIV, the operand bits that are ignored, the fetch of an
encoded instruction, of an unmapped word and of a word just stored, and the accesses a held bus refuses; and the statements
of this family made from these. -/

namespace Sys2Proof.Laws

open Sys2Proof.Machine

/-! ## STORE (R324) -/

/-- STORE on a free bus: AC through MDR to the word at the operand. -/
theorem exec_store {s : State} (hbus : s.bus = .free) (a : Operand) :
    exec (.store a) s = .next
      { s with
        mar := zext16 a, mdr := s.ac, mem := memWrite s.map s.mem (zext16 a) s.ac
        upc := 0, cycleCount := s.cycleCount + 2, instrCount := s.instrCount + 1 } := by
  rw [exec, execStore]
  exact busWrite_free (s := setOperand (effectiveAddr a) s.ac s) hbus _ _ _

/-! ## DIV (R328) -/

theorem toNat_quotient (x m : Word) : (x.udiv m).toNat = x.toNat / m.toNat := BitVec.toNat_udiv

theorem quotient_eq_ofNat (x m : Word) : x.udiv m = BitVec.ofNat 16 (x.toNat / m.toNat) :=
  BitVec.eq_of_toNat_eq (by
    rw [← toNat_quotient, BitVec.toNat_ofNat, Nat.mod_eq_of_lt (x.udiv m).isLt])

theorem remainder_eq_ofNat (x m : Word) : x.umod m = BitVec.ofNat 16 (x.toNat % m.toNat) :=
  BitVec.eq_of_toNat_eq (by
    have hrem : (x.umod m).toNat = x.toNat % m.toNat := BitVec.toNat_umod
    rw [← hrem, BitVec.toNat_ofNat, Nat.mod_eq_of_lt (x.umod m).isLt])

/-- Zero of a divide is taken over the quotient alone (43_control_unit.md R266). -/
theorem mdZero_quotient (hi x m : Word) : mdZero true hi (x.udiv m) = decide (x.toNat / m.toNat = 0) := by
  have hzero : x.toNat / m.toNat = 0 ↔ x.udiv m = 0 := by rw [← toNat_quotient, BitVec.toNat_eq]; rfl
  rw [decide_eq_decide.mpr hzero]
  rfl

/-- Negative of a divide is the quotient's top bit (43_control_unit.md R266). -/
theorem mdNegative_quotient (hi x m : Word) : mdNegative true hi (x.udiv m) = (x.toNat / m.toNat).testBit 15 := by
  rw [← toNat_quotient]
  rfl

/-- The divide's registers and flags, from the quotient and the remainder as numbers. -/
theorem setMdResult_quotient (s : State) (m : Word) :
    setMdResult true (s.ac.umod m) (s.ac.udiv m) m s =
      { s with
        lo := BitVec.ofNat 16 (s.ac.toNat / m.toNat), hi := BitVec.ofNat 16 (s.ac.toNat % m.toNat)
        z := decide (s.ac.toNat / m.toNat = 0), n := (s.ac.toNat / m.toNat).testBit 15
        mdB := m, mdCnt := 0, mdOp := true, fsm := .idle } := by
  rw [setMdResult, mdZero_quotient, mdNegative_quotient, quotient_eq_ofNat, remainder_eq_ofNat]

theorem exec_div_nonzero {a : Operand} {s : State} {m : Word} (hbus : s.bus = .free)
    (hm : memRead s.map s.mem (zext16 a) = m) (hne : m ≠ 0) :
    exec (.div a) s = .next (endInstr 22 (setMdResult true (s.ac.umod m) (s.ac.udiv m) m (setOperand (zext16 a) m s))) := by
  rw [exec, execDiv, withMemOperand_of_memRead hbus hm, if_neg hne]
  rfl

theorem exec_div_zero {a : Operand} {s : State} (hbus : s.bus = .free) (hm : memRead s.map s.mem (zext16 a) = 0) :
    exec (.div a) s = .next (endInstr 5 (recordDivZero { setOperand (zext16 a) 0 s with fsm := .idle })) := by
  rw [exec, execDiv, withMemOperand_of_memRead hbus hm, if_pos rfl]

/-! ## A held bus (log 7) -/

theorem withMemOperand_held {s : State} (hbus : s.bus ≠ .free) (a : Operand) (k : Word → State → Answer) :
    withMemOperand a s k = .refused .busDenied := busRead_held hbus _ _

theorem fetch_held {s : State} (hbus : s.bus ≠ .free) (k : Word → State → Answer) :
    fetch s k = .refused .busDenied := busRead_held hbus _ _

/-! ## Fetching (R320, R321) -/

/-- A control asked at the ALU's ports runs with the request cleared (log 4). -/
theorem step_of_encode_eq_aluCtrl {i : Instr} {ctrl : AluCtrl} {s : State} (hreq : s.aluPort.request = some ctrl)
    (hwf : i.wellFormed = true) (henc : encode i = .aluCtrl ctrl) : step s = exec i (clearAluRequest s) := by
  rw [step_request hreq, ← eq_decodeAluCtrl_of_encode_eq_aluCtrl hwf henc]

theorem step_of_encode_eq_word {i : Instr} {s : State} (hready : Ready s)
    (henc : encode i = .word (memRead s.map s.mem s.pc)) :
    step s = exec i (fetched (memRead s.map s.mem s.pc) s) := by
  rw [step_ready hready, ← eq_decodeWord_of_encode_eq_word henc]

/-! ## The statements -/

/-- Settles O8: FETCH, and the laws of `MemWrite` at the operand's two cells and elsewhere. -/
theorem storeWritesAcAtTheOperand : Obligations.StoreWritesAcAtTheOperand :=
  ⟨fetchRuns .store, fun a s hbus => ⟨_, exec_store hbus a, rfl,
    fun hmapped hwf => memRead_memWrite_self hmapped s.ac hwf, fun h => memWrite_unmapped _ _ h,
    fun _ hlow hhigh => readByte_memWrite_ne hlow hhigh _ _, fun _ hb => memRead_memWrite_ne (Ne.symm hb) _⟩⟩

/-- Settles O12: FETCH, and both cases of the divisor. -/
theorem divLeavesQuotientAndRemainderOrRecordsZero : Obligations.DivLeavesQuotientAndRemainderOrRecordsZero := by
  refine ⟨fetchRuns .div, fun a s m hbus hm hne => ⟨?_, ?_⟩, fun a s hbus hm => exec_div_zero hbus hm⟩
  · rw [Nat.mul_comm, Nat.div_add_mod]
  · rw [exec_div_nonzero hbus hm hne]
    exact congrArg (fun t => Host.Outcome.next (endInstr 22 t)) (setMdResult_quotient (setOperand (zext16 a) m s) m)

/-- Settles O59: NOP and HALT use no operand, and the shifts' results are functions of its low four bits. -/
theorem ignoredOperandBitsChangeNothing : Obligations.IgnoredOperandBitsChangeNothing := by
  refine fun a b s => ⟨rfl, rfl, fun hlow => ?_⟩
  have hshl := shlShiftsLeftByTheLowFourBits.2 b s _ rfl
  have hshr := shrShiftsRightByTheLowFourBits.2 b s _ rfl
  rw [← hlow] at hshl hshr
  exact ⟨⟨_, _, shlShiftsLeftByTheLowFourBits.2 a s _ rfl, hshl, rfl⟩,
    ⟨_, _, shrShiftsRightByTheLowFourBits.2 a s _ rfl, hshr, rfl⟩⟩

/-- Settles O37: the sentinel read from an unmapped address is the word of HALT. -/
theorem unmappedFetchHalts : Obligations.UnmappedFetchHalts := by
  intro s hready hunmapped
  rw [step_ready hready, memRead_unmapped s.mem hunmapped]
  rfl

/-- Settles O38: the word stored is the word at the next PC, so the next step fetches it. -/
theorem storeIsSeenByTheNextFetch : Obligations.StoreIsSeenByTheNextFetch := by
  intro a s hready hword hnext hmapped hwf
  have hfetch := fetchRuns .store a s hready hword
  obtain ⟨hrun, ⟨-, hfsm, hbus⟩, hreq⟩ := hready
  obtain ⟨t, hexec, ht, hread, -⟩ := storeWritesAcAtTheOperand.2 a (fetched (wordOf 0x2 a) s) hbus
  have hready' : Ready t := by
    rw [ht]
    exact ⟨hrun, ⟨rfl, hfsm, hbus⟩, hreq⟩
  have hpc : t.pc = zext16 a := (congrArg State.pc ht).trans hnext
  have hword' : memRead t.map t.mem t.pc = s.ac := hpc ▸ hread hmapped hwf
  refine ⟨t, hfetch.trans hexec, hready', hpc, (congrArg State.ac ht).trans rfl, ?_⟩
  rw [step_ready hready', hword']

/-- Settles O44: the word at PC, or the control asked, is the encoding of one instruction alone. -/
theorem stepRunsTheDecodedInstruction : Obligations.StepRunsTheDecodedInstruction :=
  ⟨fun _ _ hready _ henc => step_of_encode_eq_word hready henc,
    fun _ _ _ hreq hwf henc => step_of_encode_eq_aluCtrl hreq hwf henc⟩

/-- Settles O22: every memory instruction, and the fetch, begins with an access that is refused. -/
theorem heldBusRefusesEveryAccess : Obligations.HeldBusRefusesEveryAccess := by
  refine fun a s hbus => ⟨?_, fun hreq hrun hbetween => ?_⟩
  · have hstore : execStore a s = .refused .busDenied :=
      busWrite_held (s := setOperand (effectiveAddr a) s.ac s) hbus _ _ _
    simp [exec, hstore, execLoad, execAdd, execSub, execMult, execDiv, execAnd, execOr, execXor, execAluMemory,
      withMemOperand_held hbus]
  · rw [step_no_request hreq, instructionCycle, if_pos hrun, if_pos hbetween, fetch_held hbus]

end Sys2Proof.Laws
end

section
/-! PROOFS. The instruction cycle as a function (44_cpu_cycle.md R296): on a free bus every instruction word has one next
state, and what it does to each field is said once. -/

namespace Sys2Proof.Laws

open Sys2Proof.Machine

/-! ## The meaning of an instruction word on a free bus -/

/-- The state after the instruction of a kind and an operand, from the state after FETCH, when its accesses are granted. -/
def afterInstr (k : Kind) (a : Operand) (s : State) : State :=
  let m := memRead s.map s.mem (zext16 a)
  let t := setOperand (zext16 a) m s
  match k with
  | .nop => endInstr 1 s
  | .load => endInstr 3 { t with ac := m }
  | .store => endInstr 2 { setOperand (zext16 a) s.ac s with mem := memWrite s.map s.mem (zext16 a) s.ac }
  | .add => aluInstr 0b00 0b000 m 3 t
  | .sub => aluInstr 0b00 0b001 m 3 t
  | .mult => endInstr 22 (setMdResult false ((product s.ac m).extractLsb' 16 16) ((product s.ac m).extractLsb' 0 16) m t)
  | .div =>
    if m = 0 then endInstr 5 (recordDivZero { t with fsm := .idle })
    else endInstr 22 (setMdResult true (s.ac.umod m) (s.ac.udiv m) m t)
  | .jump => endInstr 1 { s with pc := zext16 a }
  | .jz => endInstr 1 { s with pc := if s.z then zext16 a else s.pc }
  | .loadi => endInstr 1 { s with ac := zext16 a }
  | .and => aluInstr 0b01 0b000 m 3 t
  | .or => aluInstr 0b01 0b001 m 3 t
  | .xor => aluInstr 0b01 0b010 m 3 t
  | .shl => aluInstr 0b10 0b000 (zext16 a) 1 s
  | .shr => aluInstr 0b10 0b001 (zext16 a) 1 s
  | .halt => endInstr 1 { s with run := false }

theorem afterInstr_div_zero {a : Operand} {s : State} (hm : memRead s.map s.mem (zext16 a) = 0) :
    afterInstr .div a s = endInstr 5 (recordDivZero { setOperand (zext16 a) 0 s with fsm := .idle }) :=
  (if_pos hm).trans (by rw [hm])

theorem afterInstr_div_nonzero {a : Operand} {s : State} {m : Word} (hm : memRead s.map s.mem (zext16 a) = m)
    (hne : m ≠ 0) :
    afterInstr .div a s =
      endInstr 22 (setMdResult true (s.ac.umod m) (s.ac.udiv m) m (setOperand (zext16 a) m s)) := by
  subst hm
  exact if_neg hne

/-- Every instruction word completes on a free bus, in that state. -/
theorem exec_instrOfKind {s : State} (hbus : s.bus = .free) (k : Kind) (a : Operand) :
    exec (instrOfKind k a) s = .next (afterInstr k a s) := by
  cases k with
  | load => rw [instrOfKind, exec, execLoad, withMemOperand_of_memRead hbus rfl]; rfl
  | mult => rw [instrOfKind, exec, execMult, withMemOperand_of_memRead hbus rfl]; rfl
  | store => exact exec_store hbus a
  | add | sub | and | or | xor => exact execAluMemory_of_alu hbus rfl rfl
  | div =>
    by_cases hm : memRead s.map s.mem (zext16 a) = 0
    · exact (exec_div_zero hbus hm).trans (congrArg _ (afterInstr_div_zero hm).symm)
    · exact (exec_div_nonzero hbus rfl hm).trans (congrArg _ (afterInstr_div_nonzero rfl hm).symm)
  | nop | jump | jz | loadi | shl | shr | halt => rfl

/-! ## What an instruction word does to each field -/

/-- What every instruction word does alike: it ends its cycle and leaves the sequencer idle, and it has no part in the bus's
owner, the map and the ALU's own ports. -/
structure EndsCycle (s t : State) : Prop where
  upc : t.upc = 0
  fsm : s.fsm = .idle → t.fsm = .idle
  bus : t.bus = s.bus
  map : t.map = s.map
  aluPort : t.aluPort = s.aluPort
  instrCount : t.instrCount = s.instrCount + 1

theorem endsCycle_afterInstr (k : Kind) (a : Operand) (s : State) : EndsCycle s (afterInstr k a s) := by
  cases k with
  | mult => exact ⟨rfl, fun _ => rfl, rfl, rfl, rfl, rfl⟩
  | div =>
    by_cases hm : memRead s.map s.mem (zext16 a) = 0
    · exact afterInstr_div_zero hm ▸ ⟨rfl, fun _ => rfl, rfl, rfl, rfl, rfl⟩
    · exact afterInstr_div_nonzero rfl hm ▸ ⟨rfl, fun _ => rfl, rfl, rfl, rfl, rfl⟩
  | _ => exact ⟨rfl, id, rfl, rfl, rfl, rfl⟩

/-- The clocks of R297's table, of which FETCH has taken three. -/
theorem cycleCount_afterInstr (k : Kind) (a : Operand) (s : State) :
    (afterInstr k a s).cycleCount + 3 =
      s.cycleCount + clocksOf (memRead s.map s.mem (zext16 a)) (instrOfKind k a) := by
  cases k with
  | div =>
    by_cases hm : memRead s.map s.mem (zext16 a) = 0
    · rw [afterInstr_div_zero hm, hm]; rfl
    · rw [afterInstr_div_nonzero rfl hm, instrOfKind, clocksOf, if_neg hm]; rfl
  | _ => rfl

/-- HALT clears RUN and nothing else writes it (R299). -/
theorem run_afterInstr (k : Kind) (a : Operand) (s : State) :
    (afterInstr k a s).run = if k = .halt then false else s.run := by
  cases k with
  | div =>
    by_cases hm : memRead s.map s.mem (zext16 a) = 0
    · rw [afterInstr_div_zero hm]; rfl
    · rw [afterInstr_div_nonzero rfl hm]; rfl
  | _ => rfl

/-- Only STORE writes memory. -/
theorem mem_afterInstr (k : Kind) (a : Operand) (s : State) :
    (afterInstr k a s).mem = if k = .store then memWrite s.map s.mem (zext16 a) s.ac else s.mem := by
  cases k with
  | div =>
    by_cases hm : memRead s.map s.mem (zext16 a) = 0
    · rw [afterInstr_div_zero hm]; rfl
    · rw [afterInstr_div_nonzero rfl hm]; rfl
  | _ => rfl

/-- AC, PC, Z, RUN and memory after an instruction are functions of themselves before it (10_state.md sections 4 to 7). -/
theorem programEq_afterInstr (k : Kind) (a : Operand) {s t : State} (h : ProgramEq s t) :
    ProgramEq (afterInstr k a s) (afterInstr k a t) := by
  obtain ⟨hac, hpc, hz, hrun, hmem, hmap⟩ := h
  cases k with
  | div =>
    by_cases hm : memRead s.map s.mem (zext16 a) = 0
    · have hm' : memRead t.map t.mem (zext16 a) = 0 := by rw [← hmem, ← hmap, hm]
      rw [afterInstr_div_zero hm, afterInstr_div_zero hm']
      exact ⟨hac, hpc, hz, hrun, hmem, hmap⟩
    · have hm' : memRead t.map t.mem (zext16 a) = memRead s.map s.mem (zext16 a) := by rw [← hmem, ← hmap]
      rw [afterInstr_div_nonzero rfl hm, afterInstr_div_nonzero hm' hm, ← hac]
      exact ⟨hac, hpc, rfl, hrun, hmem, hmap⟩
  | _ => simp [ProgramEq, afterInstr, aluInstr_eq, hac, hpc, hz, hrun, hmem, hmap]

/-! ## The instruction cycle from a boundary -/

/-- The state after the instruction cycle of a running core between instructions: FETCH and the meaning of the word. -/
def afterCycle (s : State) : State :=
  let w := memRead s.map s.mem s.pc
  afterInstr (kindOf (opcodeField w)) (operandField w) (fetched w s)

theorem instructionCycle_running {s : State} (hrun : s.run = true) (h : AtBoundary s) :
    instructionCycle s = .next (afterCycle s) := by
  have hbetween := betweenInstructions_of_atBoundary h
  obtain ⟨-, -, hbus⟩ := h
  rw [instructionCycle, if_pos hrun, if_pos hbetween, fetch_free hbus]
  exact exec_instrOfKind (s := fetched _ s) hbus _ _

theorem step_eq_afterCycle {s : State} (h : Ready s) : step s = .next (afterCycle s) := by
  obtain ⟨hrun, hboundary, hreq⟩ := h
  rw [step_no_request hreq, instructionCycle_running hrun hboundary]

theorem atBoundary_afterCycle {s : State} (h : AtBoundary s) : AtBoundary (afterCycle s) := by
  obtain ⟨-, hfsm, hbus⟩ := h
  have hends := endsCycle_afterInstr (kindOf (opcodeField (memRead s.map s.mem s.pc)))
    (operandField (memRead s.map s.mem s.pc)) (fetched (memRead s.map s.mem s.pc) s)
  exact ⟨hends.upc, hends.fsm hfsm, hends.bus.trans hbus⟩

theorem programEq_afterCycle {s t : State} (h : ProgramEq s t) : ProgramEq (afterCycle s) (afterCycle t) := by
  obtain ⟨hac, hpc, hz, hrun, hmem, hmap⟩ := h
  have hword : memRead s.map s.mem s.pc = memRead t.map t.mem t.pc := by rw [hmap, hmem, hpc]
  rw [afterCycle, afterCycle, hword]
  exact programEq_afterInstr _ _ ⟨hac, congrArg (· + 1) hpc, hz, hrun, hmem, hmap⟩

/-- What a step from a boundary can be: a change at the ALU's own ports at most, or an instruction cycle. -/
theorem step_from_boundary {s t : State} (hboundary : AtBoundary s) (h : step s = .next t) :
    (∃ port, t = { s with aluPort := port }) ∨ Ready s ∧ t = afterCycle s := by
  cases hreq : s.aluPort.request with
  | some ctrl =>
    rw [step_request hreq, exec_decodeAluCtrl] at h
    exact .inl ⟨_, (Host.Outcome.next.inj h).symm⟩
  | none =>
    by_cases hrun : s.run = true
    · have hready : Ready s := ⟨hrun, hboundary, hreq⟩
      rw [step_eq_afterCycle hready] at h
      exact .inr ⟨hready, (Host.Outcome.next.inj h).symm⟩
    · rw [step_halted (Bool.eq_false_of_not_eq_true hrun) hreq] at h
      exact .inl ⟨s.aluPort, (Host.Outcome.next.inj h).symm⟩

end Sys2Proof.Laws
end

section
/-! PROOFS. Steps and runs (44_cpu_cycle.md): what each step gives, what it keeps of the boundary and of the invariant of a
run, what a bounded run composes to, and what a program can see of it; and the statements of this family. -/

namespace Sys2Proof.Laws

open Sys2Proof.Machine

/-! ## Clocks to the end of an instruction cycle, from any state -/

/-- What every clock keeps, the clocks to the end of an instruction cycle keep. -/
theorem clocksToEnd_keeps {P : State → Prop} (hclock : ∀ s t, clock s = .next t → P s → P t) {fuel : Nat} {s t : State}
    (h : clocksToEnd fuel s = .next t) (hs : P s) : P t := by
  induction fuel generalizing s with
  | zero => cases h; exact hs
  | succ fuel ih =>
    cases hc : clock s with
    | next u =>
      have hu := hclock s u hc hs
      rw [clocksToEnd_succ_next hc] at h
      split at h
      · cases h; exact hu
      · exact ih h hu
    | fault f => cases f
    | refused r => simp [clocksToEnd, hc] at h

/-- On a free bus no clock is refused, so any number of them answers a next state. -/
theorem clocksToEnd_answers {s : State} (hbus : s.bus = .free) (fuel : Nat) : ∃ t, clocksToEnd fuel s = .next t := by
  induction fuel generalizing s with
  | zero => exact ⟨s, rfl⟩
  | succ fuel ih =>
    obtain ⟨t, hclock, hfree, -⟩ := clock_answers hbus
    rw [clocksToEnd_succ_next hclock]
    split
    · exact ⟨t, rfl⟩
    · exact ih hfree

theorem clock_aluPort {s t : State} (h : clock s = .next t) : t.aluPort = s.aluPort := by
  by_cases hrun : s.run = true
  · obtain ⟨mem, rdata, rfl⟩ := clock_running_next hrun h
    rfl
  · rw [clock_halted (Bool.eq_false_of_not_eq_true hrun)] at h
    rw [Host.Outcome.next.inj h]

/-! ## Every step -/

/-- A step on a free bus answers a next state, whatever the microcounter and the sequencer hold. -/
theorem step_answers {s : State} (hbus : s.bus = .free) : ∃ t, step s = .next t := by
  cases hreq : s.aluPort.request with
  | some ctrl => exact ⟨_, (step_request hreq).trans (exec_decodeAluCtrl ctrl _)⟩
  | none =>
    rw [step_no_request hreq, instructionCycle, fetch_free hbus]
    split
    · split
      · exact ⟨_, exec_instrOfKind (s := fetched _ s) hbus _ _⟩
      · exact clocksToEnd_answers hbus _
    · exact ⟨s, rfl⟩

/-- A step with nothing asked at the ALU's own ports leaves their wires alone. -/
theorem step_aluPort {s t : State} (hreq : s.aluPort.request = none) (h : step s = .next t) : t.aluPort = s.aluPort := by
  obtain ⟨ctrl, hasked, -⟩ | ⟨-, -, rfl⟩ | ⟨-, -, -, hbus, hexec⟩ | ⟨-, -, -, hclocks⟩ := step_cases h
  · cases hreq.symm.trans hasked
  · rfl
  · cases (exec_instrOfKind (s := fetched (memRead s.map s.mem s.pc) s) hbus _ _).symm.trans hexec
    exact (endsCycle_afterInstr _ _ _).aluPort
  · exact clocksToEnd_keeps (P := fun u => u.aluPort = s.aluPort) (fun _ _ hc hu => (clock_aluPort hc).trans hu) hclocks rfl

/-- With RUN = 0 a step can only take up a request at the ALU's own ports, which leaves RUN. -/
theorem step_keeps_halted {s t : State} (hhalted : s.run = false) (h : step s = .next t) : t.run = false := by
  cases hreq : s.aluPort.request with
  | some ctrl =>
    rw [step_request hreq, exec_decodeAluCtrl] at h
    cases h
    exact hhalted
  | none =>
    rw [step_halted hhalted hreq] at h
    cases h
    exact hhalted

/-! ## The invariant of a run -/

theorem atBoundary_step {s t : State} (hs : AtBoundary s) (h : step s = .next t) : AtBoundary t := by
  obtain ⟨port, rfl⟩ | ⟨-, rfl⟩ := step_from_boundary hs h
  · exact hs
  · exact atBoundary_afterCycle hs

/-- Setting bit 0 leaves ERR's reserved bits (60_exceptions.md R366). -/
theorem reserved_or_one (e : Word) : (e ||| 1) &&& 0xFFFE#16 = e &&& 0xFFFE#16 := by
  rw [BitVec.and_or_distrib_right]
  exact BitVec.or_zero

theorem errWf_afterCycle {s : State} (hready : Ready s) (hs : ErrWf s) : ErrWf (afterCycle s) := by
  have herr := step_ready_err hready (step_eq_afterCycle hready)
  rw [ErrWf, herr]
  split
  · rw [reserved_or_one, hs]
  · exact hs

theorem word_of_lowCell (a : Word) : BitVec.ofNat 16 (lowCell a / 2) = a := by
  rw [lowCell, Nat.mul_div_cancel_left _ Nat.two_pos, BitVec.ofNat_toNat, BitVec.setWidth_eq]

theorem word_of_highCell (a : Word) : BitVec.ofNat 16 (highCell a / 2) = a := by
  rw [highCell, Nat.mul_add_div Nat.two_pos, Nat.add_zero, BitVec.ofNat_toNat, BitVec.setWidth_eq]

/-- `MemWrite` lists no cell but those listed before and, at a mapped address, the word's two. -/
theorem mapped_of_mem_memWrite {map : List AddrRange} {mem : Memory} {a v : Word} {cell : Host.Cell}
    (hlisted : ∀ c ∈ mem, mapped map (BitVec.ofNat 16 (c.1 / 2)) = true) (h : cell ∈ memWrite map mem a v) :
    mapped map (BitVec.ofNat 16 (cell.1 / 2)) = true := by
  by_cases hmapped : mapped map a = true
  · rw [memWrite, if_pos hmapped] at h
    rcases mem_writeByte h with rfl | h
    · exact (word_of_highCell a).symm ▸ hmapped
    · rcases mem_writeByte h with rfl | h
      · exact (word_of_lowCell a).symm ▸ hmapped
      · exact hlisted cell h
  · rw [memWrite, if_neg hmapped] at h
    exact hlisted cell h

theorem memWf_afterCycle {s : State} (hs : MemWf s) : MemWf (afterCycle s) := by
  obtain ⟨hwf, hlisted⟩ := hs
  rw [MemWf, afterCycle, (endsCycle_afterInstr _ _ _).map, mem_afterInstr]
  split
  · exact ⟨memoryWf_memWrite _ _ hwf, fun _ => mapped_of_mem_memWrite hlisted⟩
  · exact ⟨hwf, hlisted⟩

/-- The clocks of a cycle are those of R297's table. -/
theorem cycleCount_afterCycle (s : State) :
    (afterCycle s).cycleCount = s.cycleCount +
      clocksOf (memRead s.map s.mem (zext16 (operandField (memRead s.map s.mem s.pc))))
        (decodeWord (memRead s.map s.mem s.pc)) := by
  have hcount := cycleCount_afterInstr (kindOf (opcodeField (memRead s.map s.mem s.pc)))
    (operandField (memRead s.map s.mem s.pc)) (fetched (memRead s.map s.mem s.pc) s)
  have hfetch : (fetched (memRead s.map s.mem s.pc) s).cycleCount = s.cycleCount + 3 := rfl
  rw [hfetch] at hcount
  exact Nat.add_right_cancel (hcount.trans (Nat.add_right_comm _ _ _))

theorem instrCount_afterCycle (s : State) : (afterCycle s).instrCount = s.instrCount + 1 :=
  (endsCycle_afterInstr _ _ _).instrCount

theorem clocksOf_word_bounds (m : Word) (k : Kind) (a : Operand) :
    4 ≤ clocksOf m (instrOfKind k a) ∧ clocksOf m (instrOfKind k a) ≤ 25 := by
  cases k with
  | div => rw [instrOfKind, clocksOf]; split <;> decide
  | _ => simp [instrOfKind, clocksOf]

theorem countsWf_afterCycle {s : State} (hs : CountsWf s) : CountsWf (afterCycle s) := by
  obtain ⟨hlow, hhigh⟩ := hs
  have hbounds := clocksOf_word_bounds (memRead s.map s.mem (zext16 (operandField (memRead s.map s.mem s.pc))))
    (kindOf (opcodeField (memRead s.map s.mem s.pc))) (operandField (memRead s.map s.mem s.pc))
  rw [CountsWf, cycleCount_afterCycle, instrCount_afterCycle, decodeWord]
  omega

theorem inv_step {s t : State} (hs : Inv s) (h : step s = .next t) : Inv t := by
  obtain ⟨hboundary, herr, hmem, hcounts⟩ := hs
  obtain ⟨port, rfl⟩ | ⟨hready, rfl⟩ := step_from_boundary hboundary h
  · exact ⟨hboundary, herr, hmem, hcounts⟩
  · exact ⟨atBoundary_afterCycle hboundary, errWf_afterCycle hready herr, memWf_afterCycle hmem,
      countsWf_afterCycle hcounts⟩

/-! ## Bounded runs (R303) -/

theorem runCycles_succ_running {s : State} (hrun : s.run = true) (h : AtBoundary s) (max : Nat) :
    runCycles (max + 1) s = runCycles max (afterCycle s) := by
  rw [runCycles, if_pos hrun, instructionCycle_running hrun h]

/-- A bounded run from a boundary stops at a boundary, and a longer run goes on from there. -/
theorem runCycles_add (j k : Nat) {s : State} (hs : AtBoundary s) :
    ∃ t, runCycles j s = .next t ∧ AtBoundary t ∧ runCycles (j + k) s = runCycles k t := by
  induction j generalizing s with
  | zero => exact ⟨s, rfl, hs, by rw [Nat.zero_add]⟩
  | succ j ih =>
    by_cases hrun : s.run = true
    · rw [runCycles_succ_running hrun hs, Nat.add_right_comm, runCycles_succ_running hrun hs]
      exact ih (atBoundary_afterCycle hs)
    · have hhalted := Bool.eq_false_of_not_eq_true hrun
      exact ⟨s, runCycles_halted hhalted _, hs, by rw [runCycles_halted hhalted, runCycles_halted hhalted]⟩

/-- Machines that a program cannot tell apart stay so: they halt together, and a cycle of both keeps the relation. -/
theorem programEq_runCycles (k : Nat) {s t : State} (hs : AtBoundary s) (ht : AtBoundary t) (h : ProgramEq s t) :
    ∃ s' t', runCycles k s = .next s' ∧ runCycles k t = .next t' ∧ ProgramEq s' t' := by
  induction k generalizing s t with
  | zero => exact ⟨s, t, rfl, rfl, h⟩
  | succ k ih =>
    have hrun : s.run = t.run := by
      obtain ⟨-, -, -, hrun, -⟩ := h
      exact hrun
    by_cases hs' : s.run = true
    · rw [runCycles_succ_running hs' hs, runCycles_succ_running (hrun ▸ hs') ht]
      exact ih (atBoundary_afterCycle hs) (atBoundary_afterCycle ht) (programEq_afterCycle h)
    · have hhalted := Bool.eq_false_of_not_eq_true hs'
      exact ⟨s, t, runCycles_halted hhalted _, runCycles_halted (hrun ▸ hhalted) _, h⟩

/-! ## The statements -/

/-- Settles O50: each part of the invariant over an instruction cycle. -/
theorem stepKeepsTheInvariant : Obligations.StepKeepsTheInvariant := fun _ _ => inv_step

/-- Settles O57, by induction on the number of cycles. -/
theorem programsSeeOnlyAcPcZRunAndMemory : Obligations.ProgramsSeeOnlyAcPcZRunAndMemory := fun k _ _ =>
  programEq_runCycles k

/-- Settles O47: the clocks and the one instruction of the cycle. -/
theorem everyInstructionTakesItsClocks : Obligations.EveryInstructionTakesItsClocks := by
  rintro s _ _ hready rfl rfl
  exact ⟨_, step_eq_afterCycle hready, cycleCount_afterCycle s, instrCount_afterCycle s⟩

/-- Settles O49. -/
theorem stepKeepsTheBoundary : Obligations.StepKeepsTheBoundary := fun _ _ => atBoundary_step

/-- Settles O54: RUN after an instruction cycle, and the halted step. -/
theorem onlyOpcodeFHalts : Obligations.OnlyOpcodeFHalts := by
  refine ⟨fun s t hready h => ?_, fun _ _ => step_keeps_halted⟩
  rw [step_eq_afterCycle hready] at h
  cases h
  obtain ⟨hrun, -⟩ := hready
  have hopcode : opcodeField (memRead s.map s.mem s.pc) = 0xF ↔ kindOf (opcodeField (memRead s.map s.mem s.pc)) = .halt :=
    (kindOf_eq_iff _ .halt).symm
  rw [afterCycle, run_afterInstr, hopcode]
  split
  · next hhalt => simp [hhalt]
  · next hother => simp [hother, hrun]

/-- Settles O55: a step and a clock on a free bus, and of a halted core. -/
theorem everyStepGivesANextState : Obligations.EveryStepGivesANextState := by
  intro s hbus
  obtain ⟨t, hstep⟩ := step_answers hbus
  obtain ⟨u, hclock, -⟩ := clock_answers hbus
  refine ⟨⟨t, hstep, fun hhalted hreq => ?_⟩, u, hclock, fun hhalted => ?_⟩
  · exact Host.Outcome.next.inj (hstep.symm.trans (step_halted hhalted hreq))
  · exact Host.Outcome.next.inj (hclock.symm.trans (clock_halted hhalted))

/-- Settles O58, by induction on the first bound. -/
theorem boundedRunsCompose : Obligations.BoundedRunsCompose := fun j k _ => runCycles_add j k

/-- Settles O60: the request taken up, and the wires that every other step leaves. -/
theorem aluPortOutputsAreNeverStale : Obligations.AluPortOutputsAreNeverStale := by
  refine ⟨fun a b ctrl s => ⟨_, (step_request rfl).trans (exec_decodeAluCtrl ctrl _), rfl, rfl⟩, fun s t hreq h => ?_⟩
  have hport := step_aluPort hreq h
  exact ⟨hport, by rw [aluPortOut, hport, aluPortOut]⟩

/-- Settles O51: every field of the invariant at its reset value. -/
theorem resetHasTheInvariant : Obligations.ResetHasTheInvariant := by
  refine ⟨⟨⟨rfl, rfl, rfl⟩, rfl, ⟨rfl, ?_⟩, ⟨le_rfl, le_rfl⟩⟩, rfl, ⟨rfl, rfl, rfl⟩, rfl⟩
  exact fun _ hcell => absurd hcell List.not_mem_nil

/-- Settles O52: field by field, from the definition of system reset. -/
theorem resetPutsEveryRegisterAtItsValue : Obligations.ResetPutsEveryRegisterAtItsValue := by
  rintro s _ rfl
  and_intros <;> rfl

end Sys2Proof.Laws
end

section
/-! PROOFS. More of the control unit (43_control_unit.md): the control store read row by row, the step that ends each row,
the sequencer's transitions, and the statements of this family made from them. -/

namespace Sys2Proof.Laws

open Sys2Proof.Machine

/-! ## The control store by rows (R222 to R224) -/

/-- The control word of a kind's row at a step: the fetch words, the row's microprogram, then zero words (R230, R248). -/
def rowWord (k : Kind) (step : MicroStep) : ControlWord := (fetchWords ++ executeWords k).getD step.toNat 0

/-- The step of a row's word with END_INSTR, its last one. -/
def lastStep (k : Kind) : MicroStep := BitVec.ofNat 4 (2 + (executeWords k).length)

theorem controlStore_storeAddr (op : Opcode) (step : MicroStep) :
    controlStore (storeAddr op step) = rowWord (kindOf op) step := by
  have hop : (op ++ step).extractLsb' 4 4 = op := by revert op step; decide
  have hstep : (op ++ step).extractLsb' 0 4 = step := by revert op step; decide
  rw [controlStore, storeAddr, hop, hstep]
  rfl

theorem rowWord_endInstr (k : Kind) (step : MicroStep) :
    (signalGenerator (rowWord k step)).endInstr = true ↔ step = lastStep k := by
  revert step
  cases k <;> decide

theorem rowWord_halt (k : Kind) (step : MicroStep) :
    (signalGenerator (rowWord k step)).halt = true ↔ k = .halt ∧ step = 3 := by
  revert step
  cases k <;> decide

theorem lastStep_bounds (k : Kind) : 3 ≤ (lastStep k).toNat ∧ (lastStep k).toNat ≤ 7 := by
  cases k <;> decide

theorem rowWord_after_lastStep (k : Kind) (step : MicroStep) (h : (lastStep k).toNat < step.toNat) :
    rowWord k step = 0 := by
  revert step
  cases k <;> decide

theorem controlStore_eq_rowWord (addr : StoreAddr) :
    controlStore addr = rowWord (kindOf (addr.extractLsb' 4 4)) (addr.extractLsb' 0 4) := rfl

/-- HALT's line is set at one address of the store alone (R247). -/
theorem controlStore_halt (addr : StoreAddr) : (signalGenerator (controlStore addr)).halt = true ↔ addr = 0xF3 := by
  have haddr : addr = 0xF3 ↔ addr.extractLsb' 4 4 = opcodeOfKind .halt ∧ addr.extractLsb' 0 4 = 3 := by
    revert addr; decide
  rw [controlStore_eq_rowWord, rowWord_halt, kindOf_eq_iff, haddr]

/-! ## The statements -/

/-- Settles O39: the fetch words of every row, the HALT line, and the last step of each row. -/
theorem controlStoreRows : Obligations.ControlStoreRows := by
  refine ⟨fun op => ?_, rfl, controlStore_halt, fun op => ⟨lastStep (kindOf op), ?_, ?_, ?_, ?_⟩⟩
  · simp only [controlStore_storeAddr]
    exact ⟨rfl, rfl, rfl⟩
  · exact (lastStep_bounds _).1
  · exact (lastStep_bounds _).2
  · intro step
    rw [controlStore_storeAddr, rowWord_endInstr]
  · intro step hafter
    rw [controlStore_storeAddr, rowWord_after_lastStep _ _ hafter]

/-- Settles O41: each transition is one equation of the sequencer. -/
theorem sequencerTransitions : Obligations.SequencerTransitions := fun _ _ _ _ _ =>
  ⟨rfl, rfl, rfl, rfl, rfl, rfl, rfl, rfl, rfl, rfl, rfl, rfl⟩

end Sys2Proof.Laws
end

section
/-! PROOFS. The multiply/divide unit (43_control_unit.md section 7): one iteration of the multiplier and of the divider as
arithmetic on HI and LO, the loop invariants by induction on the iterations, and the statements of this family. -/

namespace Sys2Proof.Laws

open Sys2Proof.Machine

/-! ## Iterating -/

/-- The last of `n + 1` iterations, taken after the `n` before it. -/
theorem iterateMd_succ (f : MdRegs → MdRegs) (n : Nat) (r : MdRegs) : iterateMd f (n + 1) r = f (iterateMd f n r) := by
  induction n generalizing r with
  | zero => rfl
  | succ n ih => exact ih (f r)

/-- An iteration of either unit counts itself and keeps the latched operand and the operation. -/
def CountsIteration (f : MdRegs → MdRegs) : Prop := ∀ r, (f r).b = r.b ∧ (f r).cnt = r.cnt + 1 ∧ (f r).op = r.op

theorem countsIteration_mult : CountsIteration multIteration := fun _ => ⟨rfl, rfl, rfl⟩

theorem countsIteration_div : CountsIteration divIteration := fun _ => ⟨rfl, rfl, rfl⟩

/-- MD_B, MD_CNT and MD_OP after any number of iterations from the unit's initialisation (R263 to R265). -/
theorem iterateMd_registers {f : MdRegs → MdRegs} (hf : CountsIteration f) (a b : Word) (isDiv : Signal) (n : Nat) :
    (iterateMd f n (mdInit a b isDiv)).b = b ∧ (iterateMd f n (mdInit a b isDiv)).cnt.toNat = n % 16 ∧
      (iterateMd f n (mdInit a b isDiv)).op = isDiv := by
  induction n with
  | zero => exact ⟨rfl, rfl, rfl⟩
  | succ n ih =>
    obtain ⟨hb, hcnt, hop⟩ := hf (iterateMd f n (mdInit a b isDiv))
    obtain ⟨ihb, ihcnt, ihop⟩ := ih
    rw [iterateMd_succ, hb, hcnt, hop, ihb, ihop, BitVec.toNat_add, ihcnt]
    exact ⟨rfl, Nat.mod_add_mod n 16 1, rfl⟩

/-! ## The multiplier (R264) -/

/-- A number joined from two is the high one at its weight, plus the low one. -/
theorem toNat_append_eq_add {m n : Nat} (x : BitVec m) (y : BitVec n) :
    (x ++ y).toNat = x.toNat * 2 ^ n + y.toNat := by
  rw [BitVec.toNat_append, ← Nat.shiftLeft_add_eq_or_of_lt y.isLt, Nat.shiftLeft_eq]

/-- The pair HI:LO as one number. -/
abbrev pairNat (r : MdRegs) : Nat := r.hi.toNat * 65536 + r.lo.toNat

theorem toNat_bit_zero (x : Word) : (x.getLsbD 0).toNat = x.toNat % 2 := by
  rw [← BitVec.testBit_toNat, Nat.toNat_testBit, pow_zero, Nat.div_one]

/-- One multiply iteration: the multiplicand added to HI when LO is odd, and the pair halved. -/
theorem pairNat_multIteration (r : MdRegs) :
    pairNat (multIteration r) = (pairNat r + r.lo.toNat % 2 * r.b.toNat * 65536) / 2 := by
  have hsum : (r.hi.setWidth 17 + (if r.lo.getLsbD 0 then r.b.setWidth 17 else 0)).toNat =
      r.hi.toNat + r.lo.toNat % 2 * r.b.toNat := by
    have hb : (r.b.setWidth 17).toNat = r.b.toNat := BitVec.toNat_setWidth_of_le (by omega)
    have hh : (r.hi.setWidth 17).toNat = r.hi.toNat := BitVec.toNat_setWidth_of_le (by omega)
    rw [← toNat_bit_zero, BitVec.toNat_add, hh]
    cases r.lo.getLsbD 0 with
    | false =>
      change (r.hi.toNat + 0) % 2 ^ 17 = r.hi.toNat + 0 * r.b.toNat
      omega
    | true =>
      rw [if_pos rfl, hb, Bool.toNat_true]
      omega
  simp only [pairNat, multIteration, BitVec.extractLsb'_toNat, toNat_append_eq_add, Nat.shiftRight_eq_div_pow, hsum]
  have hlow : r.lo.toNat % 2 * r.b.toNat ≤ r.b.toNat := by
    rcases Nat.mod_two_eq_zero_or_one r.lo.toNat with h | h <;> simp [h]
  generalize r.lo.toNat % 2 * r.b.toNat = added at hlow
  omega

/-- The multiplier's invariant is kept: an odd quotient adds the multiplicand at the weight that the iteration has. -/
theorem mult_step_arith (a b : Nat) {j : Nat} (hj : j < 16) :
    ((a % 2 ^ j) * b * 2 ^ (16 - j) + a / 2 ^ j + a / 2 ^ j % 2 * b * 65536) / 2 =
      (a % 2 ^ (j + 1)) * b * 2 ^ (16 - (j + 1)) + a / 2 ^ (j + 1) := by
  obtain ⟨d, hd⟩ : ∃ d, 16 - j = d + 1 := ⟨15 - j, by omega⟩
  have hweight : 65536 = 2 ^ j * 2 ^ d * 2 := by
    rw [mul_assoc, ← pow_succ, ← hd, ← pow_add, Nat.add_sub_cancel' hj.le]
    rfl
  have hd' : 16 - (j + 1) = d := by omega
  rw [hd', hd, hweight, Nat.mod_pow_succ, pow_succ 2 j, ← Nat.div_div_eq_div_mul]
  have hdouble : (a % 2 ^ j) * b * 2 ^ (d + 1) + a / 2 ^ j + a / 2 ^ j % 2 * b * (2 ^ j * 2 ^ d * 2) =
      2 * ((a % 2 ^ j + 2 ^ j * (a / 2 ^ j % 2)) * b * 2 ^ d) + a / 2 ^ j := by ring
  rw [hdouble, Nat.mul_add_div Nat.two_pos]

/-- LO's lowest bit is the multiplier's next bit: the part of the product in the pair is still an even number. -/
theorem mult_low_bit {v w p q : Nat} (hv : v * 65536 + w = p * 2 + q) : w % 2 = q % 2 := by omega

/-- The loop invariant: the low `j` bits of the multiplier have been multiplied, and the others stand below them. -/
theorem pairNat_multIterations (a b : Word) {j : Nat} (hj : j ≤ 16) :
    pairNat (iterateMd multIteration j (mdInit a b false)) =
      (a.toNat % 2 ^ j) * b.toNat * 2 ^ (16 - j) + a.toNat / 2 ^ j := by
  induction j with
  | zero => simp [iterateMd, mdInit, pairNat, Nat.mod_one]
  | succ j ih =>
    have hpair := ih (by omega)
    have hbit : (iterateMd multIteration j (mdInit a b false)).lo.toNat % 2 = a.toNat / 2 ^ j % 2 := by
      have hweight : 2 ^ (16 - j) = 2 ^ (15 - j) * 2 := by rw [← pow_succ]; congr 1; omega
      rw [hweight, ← mul_assoc] at hpair
      exact mult_low_bit hpair
    rw [iterateMd_succ, pairNat_multIteration, hpair, hbit, (iterateMd_registers countsIteration_mult a b false j).1,
      mult_step_arith _ _ (by omega)]

/-! ## The divider (R265) -/

/-- The partial remainder with the dividend's next bit shifted in: 17 bits. -/
abbrev shiftedIn (r : MdRegs) : Nat := 2 * r.hi.toNat + r.lo.toNat / 32768

theorem toNat_shiftedIn (r : MdRegs) : (r.hi ++ r.lo.extractLsb' 15 1).toNat = shiftedIn r := by
  have htop : (r.lo.extractLsb' 15 1).toNat = r.lo.toNat / 32768 := by
    rw [BitVec.extractLsb'_toNat, Nat.shiftRight_eq_div_pow]
    omega
  rw [toNat_append_eq_add, htop, shiftedIn, Nat.mul_comm, pow_one]

theorem shiftedIn_lt {r : MdRegs} (h : r.hi.toNat < r.b.toNat) : shiftedIn r < 2 * r.b.toNat := by
  have hlo := r.lo.isLt
  unfold shiftedIn
  omega

/-- Below twice the divisor, the quotient is 1 exactly when the divisor fits, and the remainder is the rest. -/
theorem div_mod_of_lt_two_mul {t b : Nat} (h : t < 2 * b) :
    t / b = (if b ≤ t then 1 else 0) ∧ t % b = if b ≤ t then t - b else t := by
  split
  · next hfits =>
    have hdiv : t / b = 1 := by rw [Nat.div_eq_sub_div (by omega) hfits, Nat.div_eq_of_lt (by omega)]
    exact ⟨hdiv, by rw [Nat.mod_eq_sub_mod hfits, Nat.mod_eq_of_lt (by omega)]⟩
  · next hbelow => exact ⟨Nat.div_eq_of_lt (by omega), Nat.mod_eq_of_lt (by omega)⟩

/-- One divide iteration, while HI holds a remainder: HI becomes the new remainder. -/
theorem toNat_hi_divIteration {r : MdRegs} (h : r.hi.toNat < r.b.toNat) :
    (divIteration r).hi.toNat = shiftedIn r % r.b.toNat := by
  have hlt := shiftedIn_lt h
  have hb : (r.b.setWidth 17).toNat = r.b.toNat := BitVec.toNat_setWidth_of_le (by omega)
  rw [(div_mod_of_lt_two_mul hlt).2]
  simp only [divIteration, toNat_shiftedIn, decide_eq_true_eq]
  split
  · rw [BitVec.toNat_setWidth, BitVec.toNat_sub, toNat_shiftedIn, hb]
    omega
  · rw [BitVec.toNat_setWidth, toNat_shiftedIn]
    omega

/-- One divide iteration, while HI holds a remainder: LO takes in the new quotient bit. -/
theorem toNat_lo_divIteration {r : MdRegs} (h : r.hi.toNat < r.b.toNat) :
    (divIteration r).lo.toNat = 2 * r.lo.toNat % 65536 + shiftedIn r / r.b.toNat := by
  have hshift : (r.lo <<< 1).toNat = (r.lo.toNat % 32768) <<< 1 := by
    rw [BitVec.toNat_shiftLeft, Nat.shiftLeft_eq, Nat.shiftLeft_eq]
    omega
  rw [(div_mod_of_lt_two_mul (shiftedIn_lt h)).1]
  simp only [divIteration, toNat_shiftedIn, decide_eq_true_eq]
  rw [BitVec.toNat_or, hshift]
  split
  · rw [← Nat.shiftLeft_add_eq_or_of_lt (show (1 : Word).toNat < 2 ^ 1 by decide), Nat.shiftLeft_eq]
    change r.lo.toNat % 32768 * 2 ^ 1 + 1 = _
    omega
  · rw [← Nat.shiftLeft_add_eq_or_of_lt (show (0 : Word).toNat < 2 ^ 1 by decide), Nat.shiftLeft_eq]
    change r.lo.toNat % 32768 * 2 ^ 1 + 0 = _
    omega

/-- The dividend's next bit shifted into a remainder gives the next remainder, and a quotient bit for the quotient. -/
theorem div_step_arith (n : Nat) {b : Nat} (hb : 0 < b) :
    (2 * (n / 2 % b) + n % 2) % b = n % b ∧ 2 * (n / 2 / b) + (2 * (n / 2 % b) + n % 2) / b = n / b := by
  have hn : n = b * (2 * (n / 2 / b)) + (2 * (n / 2 % b) + n % 2) := by
    have hhalf := Nat.div_add_mod (n / 2) b
    have hwhole := Nat.div_add_mod n 2
    linear_combination 2 * hhalf.symm + hwhole.symm
  constructor
  · conv_rhs => rw [hn, Nat.mul_add_mod]
  · conv_rhs => rw [hn, Nat.mul_add_div hb]

/-- LO before an iteration: on top the dividend's next bit, below it the bits still to come and the quotient so far. -/
theorem div_lo_split {a b j k : Nat} (ha : a < 65536) (hk : j + k = 15) :
    (a % 2 ^ (k + 1)) * 2 ^ j + a / 2 ^ (k + 1) / b = a / 2 ^ k % 2 * 32768 + ((a % 2 ^ k) * 2 ^ j + a / 2 ^ (k + 1) / b) ∧
      (a % 2 ^ k) * 2 ^ j + a / 2 ^ (k + 1) / b < 32768 := by
  have hweight : 2 ^ k * 2 ^ j = 32768 := by rw [← pow_add, Nat.add_comm, hk]; rfl
  constructor
  · rw [Nat.mod_pow_succ, ← hweight]
    ring
  · have hquot : a / 2 ^ (k + 1) / b < 2 ^ j := by
      refine lt_of_le_of_lt (Nat.div_le_self _ _) (Nat.div_lt_of_lt_mul ?_)
      rw [pow_succ, Nat.mul_right_comm, hweight]
      exact ha
    have hrest : a % 2 ^ k + 1 ≤ 2 ^ k := Nat.mod_lt _ (by positivity)
    calc (a % 2 ^ k) * 2 ^ j + a / 2 ^ (k + 1) / b < (a % 2 ^ k) * 2 ^ j + 2 ^ j := Nat.add_lt_add_left hquot _
      _ = (a % 2 ^ k + 1) * 2 ^ j := by ring
      _ ≤ 2 ^ k * 2 ^ j := Nat.mul_le_mul_right _ hrest
      _ = 32768 := hweight

/-- The loop invariant: the dividend's top `j` bits have been divided, and the others stand in LO above the quotient. -/
theorem divIterations (a : Word) {b : Word} (hb : b ≠ 0) {j : Nat} (hj : j ≤ 16) :
    (iterateMd divIteration j (mdInit a b true)).hi.toNat = a.toNat / 2 ^ (16 - j) % b.toNat ∧
      (iterateMd divIteration j (mdInit a b true)).lo.toNat =
        (a.toNat % 2 ^ (16 - j)) * 2 ^ j + a.toNat / 2 ^ (16 - j) / b.toNat := by
  have hpos : 0 < b.toNat := Nat.pos_of_ne_zero fun h => hb (BitVec.eq_of_toNat_eq h)
  induction j with
  | zero =>
    have ha : a.toNat / 65536 = 0 := Nat.div_eq_of_lt a.isLt
    simp [iterateMd, mdInit, ha, Nat.mod_eq_of_lt a.isLt]
  | succ j ih =>
    obtain ⟨hhi, hlo⟩ := ih (by omega)
    obtain ⟨k, hk⟩ : ∃ k, j + k = 15 := ⟨15 - j, by omega⟩
    obtain ⟨hsplit, hlow⟩ := div_lo_split (b := b.toNat) a.isLt hk
    have hdivisor := (iterateMd_registers countsIteration_div a b true j).1
    obtain ⟨hrem, hquot⟩ := div_step_arith (a.toNat / 2 ^ k) hpos
    rw [show 16 - j = k + 1 by omega] at hhi hlo
    rw [show 16 - (j + 1) = k by omega]
    rw [hsplit] at hlo
    rw [Nat.div_div_eq_div_mul a.toNat, ← pow_succ] at hrem hquot
    have hshifted : shiftedIn (iterateMd divIteration j (mdInit a b true)) =
        2 * (a.toNat / 2 ^ (k + 1) % b.toNat) + a.toNat / 2 ^ k % 2 := by
      rw [shiftedIn, hhi, hlo]
      omega
    have hremainder : (iterateMd divIteration j (mdInit a b true)).hi.toNat <
        (iterateMd divIteration j (mdInit a b true)).b.toNat := by
      rw [hhi, hdivisor]
      exact Nat.mod_lt _ hpos
    rw [iterateMd_succ, toNat_hi_divIteration hremainder, toNat_lo_divIteration hremainder, hdivisor, hshifted, hrem]
    refine ⟨rfl, ?_⟩
    rw [← hquot, hlo, pow_succ 2 j]
    generalize a.toNat % 2 ^ k = rest at hlow ⊢
    have hweight : rest * (2 ^ j * 2) = rest * 2 ^ j * 2 := by ring
    omega

/-! ## The statements -/

/-- Settles O42: the pair by induction on the iterations, and the registers they keep and count. -/
theorem multiplierLoopInvariant : Obligations.MultiplierLoopInvariant := fun a b j hj =>
  ⟨pairNat_multIterations a b hj, iterateMd_registers countsIteration_mult a b false j⟩

/-- Settles O43: the remainder and the quotient by induction on the iterations, and the registers they keep and count. -/
theorem dividerLoopInvariant : Obligations.DividerLoopInvariant := fun a b j hb hj => by
  obtain ⟨hhi, hlo⟩ := divIterations a hb hj
  exact ⟨hhi, hlo, iterateMd_registers countsIteration_div a b true j⟩

end Sys2Proof.Laws
end

section
/-! PROOFS. The clock level against the instruction rules (44_cpu_cycle.md R301): one clock from its control word, FETCH as
three clocks, the row of each kind from step 3 to its END_INSTR, and the statements of this family made from these. -/

namespace Sys2Proof.Laws

open Sys2Proof.Machine

/-! ## One clock, from its control word (R292) -/

/-- The state after a running clock on a free bus whose control word is `cw`. -/
def edgeOf (cw : ControlWord) (s : State) : State :=
  let L := signalGenerator cw
  let imm := zext16 (operandField s.ir)
  let out := alu s.ac (if L.aluBImm then imm else s.mdr) (aluOpOf cw) (aluFnOf cw)
  let mem := if L.memWr then memWrite s.map s.mem s.mar s.mdr else s.mem
  let rdata := if L.memRd then memRead s.map mem s.mar else s.mdr
  let f := fsmOutputs s.fsm
  let md := mdNext s.fsm s.ac s.mdr (mdRegs s)
  let mdFlags := L.mdFlagsLd && !f.mdError
  { s with
    mem := mem
    mar := if L.marLdPc then s.pc else if L.marLdIr then imm else s.mar
    mdr := if L.mdrLdMem then rdata else if L.mdrLdAc then s.ac else s.mdr
    ir := if L.irLd then s.mdr else s.ir
    pc := if L.pcLd then imm else if L.pcLdZ && s.z then imm else if L.pcInc then s.pc + 1 else s.pc
    ac := if L.acLdAlu then out.result else if L.acLdMdr then s.mdr else if L.acLdImm then imm else s.ac
    z := if L.flagsLd then out.z else if mdFlags then mdZero s.mdOp s.hi s.lo else s.z
    n := if L.flagsLd then out.n else if mdFlags then mdNegative s.mdOp s.hi s.lo else s.n
    c := if L.flagsLd then out.c else s.c
    hi := md.hi, lo := md.lo, mdB := md.b, mdCnt := md.cnt, mdOp := md.op
    err := if f.mdError then s.err ||| 0x0001#16 else s.err
    fsm := fsmNext s.fsm L.mdReset L.mdStartMul L.mdStartDiv (s.mdr == 0) (s.mdCnt == 15)
    upc := microCounterNext s.upc L.endInstr false 0 (!(L.mdWait && f.busy))
    run := if L.halt then false else s.run
    cycleCount := s.cycleCount + 1
    instrCount := if L.endInstr then s.instrCount + 1 else s.instrCount }

/-- The write and the read are the bus's, on a free bus; the edge is the clock's, HALT clearing RUN. -/
theorem clock_eq_edgeOf {s : State} (hrun : s.run = true) (hbus : s.bus = .free) :
    clock s = .next (edgeOf (controlWord s) s) := by
  have hwrite : (if (controlLines s).memWr then { s with mem := memWrite s.map s.mem s.mar s.mdr } else s) =
      { s with mem := if (controlLines s).memWr then memWrite s.map s.mem s.mar s.mdr else s.mem } := by
    split <;> rfl
  have hhalt : (s.run && !(controlLines s).halt) = if (controlLines s).halt then false else s.run := by
    cases (controlLines s).halt <;> simp
  rw [clock_free hrun hbus, hwrite]
  exact congrArg (fun run => Host.Outcome.next { edgeOf (controlWord s) s with run := run }) hhalt

theorem controlWord_eq_rowWord (s : State) : controlWord s = rowWord (kindOf (opcodeField s.ir)) s.upc :=
  controlStore_storeAddr _ _

/-- The clock is about to perform the control word of a kind's row at a step, on a free bus. -/
structure AtStep (k : Kind) (step : MicroStep) (s : State) : Prop where
  run : s.run = true
  bus : s.bus = .free
  kind : kindOf (opcodeField s.ir) = k
  upc : s.upc = step

theorem AtStep.controlWord_eq {k : Kind} {step : MicroStep} {s : State} (h : AtStep k step s) :
    controlWord s = rowWord k step := by
  rw [controlWord_eq_rowWord, h.kind, h.upc]

theorem AtStep.clock_eq {k : Kind} {step : MicroStep} {s : State} (h : AtStep k step s) {cw : ControlWord}
    (hcw : rowWord k step = cw) : clock s = .next (edgeOf cw s) := by
  rw [clock_eq_edgeOf h.run h.bus, h.controlWord_eq, hcw]

/-- A clock whose word `cw` has no END_INSTR, of the clocks to the end of the instruction cycle. -/
theorem AtStep.clocksToEnd_more {k : Kind} {step : MicroStep} {s : State} (h : AtStep k step s) {cw : ControlWord}
    (hcw : rowWord k step = cw) (hword : (signalGenerator cw).endInstr = false) (fuel : Nat) :
    clocksToEnd (fuel + 1) s = clocksToEnd fuel (edgeOf cw s) := by
  rw [clocksToEnd_succ_next (h.clock_eq hcw), endsInstr, controlLines, h.controlWord_eq, hcw, hword]
  rfl

/-- The clock whose word has END_INSTR is the last. -/
theorem AtStep.clocksToEnd_last {k : Kind} {step : MicroStep} {s : State} (h : AtStep k step s)
    (hstep : step = lastStep k) (fuel : Nat) : clocksToEnd (fuel + 1) s = .next (edgeOf (rowWord k step) s) := by
  rw [clocksToEnd_succ_next (h.clock_eq rfl), endsInstr, controlLines, h.controlWord_eq,
    (rowWord_endInstr k step).mpr hstep]
  rfl

/-! ## FETCH (R293) -/

/-- A state is itself with its microcounter and its sequencer written out. -/
theorem eq_withUpcFsm {s : State} {step : MicroStep} {f : Fsm} (hupc : s.upc = step) (hfsm : s.fsm = f) :
    s = { s with upc := step, fsm := f } := by
  subst hupc hfsm
  rfl

/-- The three edges of FETCH together. -/
theorem fetch_edges {s : State} (hupc : s.upc = 0) (hfsm : s.fsm = .idle) :
    edgeOf 0x00020000 (edgeOf 0x00048400 (edgeOf 0x00002000 s)) = fetched (memRead s.map s.mem s.pc) s := by
  rw [eq_withUpcFsm hupc hfsm]
  rfl

/-- Whatever row IR still selects, its steps 0 to 2 are FETCH. -/
theorem atStep_fetch {s : State} (h : Ready s) :
    AtStep (kindOf (opcodeField s.ir)) 0 s ∧ AtStep (kindOf (opcodeField s.ir)) 1 (edgeOf 0x00002000 s) ∧
      AtStep (kindOf (opcodeField s.ir)) 2 (edgeOf 0x00048400 (edgeOf 0x00002000 s)) := by
  obtain ⟨hrun, ⟨hupc, -, hbus⟩, -⟩ := h
  exact ⟨⟨hrun, hbus, rfl, hupc⟩, ⟨hrun, hbus, rfl, congrArg (· + 1) hupc⟩,
    ⟨hrun, hbus, rfl, congrArg (· + 1 + 1) hupc⟩⟩

theorem clocks_fetch {s : State} (h : Ready s) : clocks 3 s = .next (fetched (memRead s.map s.mem s.pc) s) := by
  obtain ⟨h0, h1, h2⟩ := atStep_fetch h
  obtain ⟨-, ⟨hupc, hfsm, -⟩, -⟩ := h
  rw [clocks_succ_next (h0.clock_eq (cw := 0x00002000) rfl), clocks_succ_next (h1.clock_eq (cw := 0x00048400) rfl),
    clocks_succ_next (h2.clock_eq (cw := 0x00020000) rfl), fetch_edges hupc hfsm]
  rfl

theorem clocksToEnd_fetch {s : State} (h : Ready s) (fuel : Nat) :
    clocksToEnd (fuel + 3) s = clocksToEnd fuel (fetched (memRead s.map s.mem s.pc) s) := by
  obtain ⟨h0, h1, h2⟩ := atStep_fetch h
  obtain ⟨-, ⟨hupc, hfsm, -⟩, -⟩ := h
  rw [h0.clocksToEnd_more (cw := 0x00002000) rfl rfl, h1.clocksToEnd_more (cw := 0x00048400) rfl rfl,
    h2.clocksToEnd_more (cw := 0x00020000) rfl rfl, fetch_edges hupc hfsm]

/-! ## The rows of the kinds without a sequencer, from step 3 (R232 to R247) -/

/-- A row of one clock. -/
theorem clocksToEnd_row_one {k : Kind} (hk : lastStep k = 3) {s : State} (h : AtStep k 3 s) (hfsm : s.fsm = .idle)
    (fuel : Nat) : clocksToEnd (fuel + 1) s = .next (afterInstr k (operandField s.ir) s) := by
  rw [h.clocksToEnd_last hk.symm, eq_withUpcFsm h.upc hfsm]
  cases k with
  | nop | jump | jz | loadi | shl | shr | halt => rfl
  | _ => exact absurd hk (by decide)

/-- The row of STORE: AC to MDR, then the write. -/
theorem clocksToEnd_row_store {s : State} (h : AtStep .store 3 s) (hfsm : s.fsm = .idle) (fuel : Nat) :
    clocksToEnd (fuel + 2) s = .next (afterInstr .store (operandField s.ir) s) := by
  have h4 : AtStep .store 4 (edgeOf 0x00014000 s) := ⟨h.run, h.bus, h.kind, congrArg (· + 1) h.upc⟩
  rw [h.clocksToEnd_more (cw := 0x00014000) rfl rfl, h4.clocksToEnd_last rfl, eq_withUpcFsm h.upc hfsm]
  rfl

/-- The state after the two clocks that fetch a memory operand. -/
def afterOperand (s : State) : State :=
  { setOperand (zext16 (operandField s.ir)) (memRead s.map s.mem (zext16 (operandField s.ir))) s with
    upc := 5, cycleCount := s.cycleCount + 2 }

/-- The first two clocks of a row with a memory operand: MAR, then the read. -/
theorem clocksToEnd_operand {k : Kind} (hmar : rowWord k 3 = 0x00004000) (hread : rowWord k 4 = 0x00048000) {s : State}
    (h : AtStep k 3 s) (hfsm : s.fsm = .idle) (fuel : Nat) :
    clocksToEnd (fuel + 2) s = clocksToEnd fuel (afterOperand s) ∧ AtStep k 5 (afterOperand s) := by
  have h4 : AtStep k 4 (edgeOf 0x00004000 s) := ⟨h.run, h.bus, h.kind, congrArg (· + 1) h.upc⟩
  have hedges : edgeOf 0x00048000 (edgeOf 0x00004000 s) = afterOperand s := by
    rw [eq_withUpcFsm h.upc hfsm]
    rfl
  exact ⟨by rw [h.clocksToEnd_more hmar rfl, h4.clocksToEnd_more hread rfl, hedges], ⟨h.run, h.bus, h.kind, rfl⟩⟩

/-- A row of three clocks: the operand, then the load of AC, from MDR or from the ALU. -/
theorem clocksToEnd_row_three {k : Kind} (hk : lastStep k = 5) {s : State} (h : AtStep k 3 s) (hfsm : s.fsm = .idle)
    (fuel : Nat) : clocksToEnd (fuel + 3) s = .next (afterInstr k (operandField s.ir) s) := by
  cases k with
  | load | add | sub | and | or | xor =>
    obtain ⟨hmore, h5⟩ := clocksToEnd_operand rfl rfl h hfsm (fuel + 1)
    rw [hmore, h5.clocksToEnd_last rfl, eq_withUpcFsm h.upc hfsm]
    rfl
  | _ => exact absurd hk (by decide)

end Sys2Proof.Laws
end

section
/-! PROOFS. The rows of MULT and DIV at clock level (43_control_unit.md section 7): the start of the sequencer, its sixteen
waits as the unit's iterations, the divide by zero; and with them the two levels of the machine as one. -/

namespace Sys2Proof.Laws

open Sys2Proof.Machine

/-! ## What the sixteen iterations give (R264, R265) -/

theorem mdRegs_eq {r : MdRegs} {hi lo b : Word} {cnt : BitVec 4} {op : Signal} (hhi : r.hi = hi) (hlo : r.lo = lo)
    (hb : r.b = b) (hcnt : r.cnt = cnt) (hop : r.op = op) : r = ⟨hi, lo, b, cnt, op⟩ := by
  subst hhi hlo hb hcnt hop
  rfl

theorem multIterations_eq_product (x m : Word) :
    iterateMd multIteration 16 (mdInit x m false) =
      ⟨(product x m).extractLsb' 16 16, (product x m).extractLsb' 0 16, m, 0, false⟩ := by
  obtain ⟨hb, hcnt, hop⟩ := iterateMd_registers countsIteration_mult x m false 16
  have hpair := pairNat_multIterations x m (le_refl 16)
  have hprod := toNat_product x m
  rw [Nat.mod_eq_of_lt x.isLt, Nat.div_eq_of_lt x.isLt, Nat.sub_self, pow_zero, Nat.mul_one, Nat.add_zero, ← hprod,
    pairNat] at hpair
  refine mdRegs_eq (BitVec.eq_of_toNat_eq ?_) (BitVec.eq_of_toNat_eq ?_) hb (BitVec.eq_of_toNat_eq hcnt) hop
  · rw [extractLsb'_high_eq_ofNat, BitVec.toNat_ofNat]
    omega
  · rw [BitVec.extractLsb'_toNat]
    omega

theorem divIterations_eq_quotient (x : Word) {m : Word} (hm : m ≠ 0) :
    iterateMd divIteration 16 (mdInit x m true) = ⟨x.umod m, x.udiv m, m, 0, true⟩ := by
  obtain ⟨hb, hcnt, hop⟩ := iterateMd_registers countsIteration_div x m true 16
  obtain ⟨hhi, hlo⟩ := divIterations x hm (le_refl 16)
  rw [Nat.sub_self, pow_zero, Nat.div_one] at hhi hlo
  rw [Nat.mod_one, Nat.zero_mul, Nat.zero_add] at hlo
  exact mdRegs_eq (BitVec.eq_of_toNat_eq (hhi.trans BitVec.toNat_umod.symm))
    (BitVec.eq_of_toNat_eq (hlo.trans (toNat_quotient x m).symm)) hb (BitVec.eq_of_toNat_eq hcnt) hop

/-! ## Both operations at once -/

/-- The kind that starts a multiply, or a divide. -/
def mdKind (isDiv : Signal) : Kind := if isDiv then .div else .mult

/-- The sequencer's INIT state of the operation. -/
def mdStart (isDiv : Signal) : Fsm := if isDiv then .divInit else .multInit

/-- The sequencer's CYCLE state of the operation. -/
def mdCycle (isDiv : Signal) : Fsm := if isDiv then .divCycle else .multCycle

/-- One iteration of the operation. -/
def mdIteration (isDiv : Signal) : MdRegs → MdRegs := if isDiv then divIteration else multIteration

/-- The state with other registers in the unit. -/
def withMd (r : MdRegs) (s : State) : State := { s with hi := r.hi, lo := r.lo, mdB := r.b, mdCnt := r.cnt, mdOp := r.op }

theorem countsIteration_md (isDiv : Signal) : CountsIteration (mdIteration isDiv) := by
  cases isDiv with
  | false => exact countsIteration_mult
  | true => exact countsIteration_div

theorem rowWord_mdKind_wait (isDiv : Signal) : rowWord (mdKind isDiv) 6 = 0x01000000 := by cases isDiv <;> rfl

theorem rowWord_mdKind_flags (isDiv : Signal) : rowWord (mdKind isDiv) 7 = 0x46000000 := by cases isDiv <;> rfl

theorem lastStep_mdKind (isDiv : Signal) : lastStep (mdKind isDiv) = 7 := by cases isDiv <;> rfl

/-! ## The clocks of the WAIT word, by the sequencer's state (R237, R256) -/

theorem eq_withFsm {s : State} {f : Fsm} (hfsm : s.fsm = f) : s = { s with fsm := f } := eq_withUpcFsm rfl hfsm

/-- The state with `n` more iterations taken by the unit, one clock each. -/
def afterWaits (isDiv : Signal) (n : Nat) (s : State) : State :=
  withMd (iterateMd (mdIteration isDiv) n (mdRegs s)) { s with cycleCount := s.cycleCount + n }

theorem afterWaits_succ (isDiv : Signal) (n : Nat) (s : State) :
    afterWaits isDiv n (afterWaits isDiv 1 s) = afterWaits isDiv (n + 1) s := by
  have hcycles : s.cycleCount + 1 + n = s.cycleCount + (n + 1) := by omega
  exact congrArg (fun c => withMd (iterateMd (mdIteration isDiv) (n + 1) (mdRegs s)) { s with cycleCount := c }) hcycles

/-- The state with the unit initialised and the sequencer in CYCLE, one clock later. -/
def afterInit (isDiv : Signal) (s : State) : State :=
  withMd (mdInit s.ac s.mdr isDiv) { s with fsm := mdCycle isDiv, cycleCount := s.cycleCount + 1 }

/-- In INIT the unit takes AC and MDR in, and the microcounter waits. -/
theorem edgeOf_wait_start {isDiv : Signal} {s : State} (hfsm : s.fsm = mdStart isDiv) :
    edgeOf 0x01000000 s = afterInit isDiv s := by
  rw [eq_withFsm hfsm]
  cases isDiv <;> rfl

/-- In CYCLE the unit iterates, and leaves for IDLE when MD_CNT was 15. -/
theorem edgeOf_wait_cycle {isDiv : Signal} {s : State} (hfsm : s.fsm = mdCycle isDiv) :
    edgeOf 0x01000000 s = { afterWaits isDiv 1 s with fsm := if s.mdCnt == 15 then .idle else mdCycle isDiv } := by
  rw [eq_withFsm hfsm]
  cases isDiv <;> rfl

/-- The waits of the CYCLE state are the iterations that are left. -/
theorem clocksToEnd_wait_cycle {k : Kind} (hwait : rowWord k 6 = 0x01000000) {isDiv : Signal} (n fuel : Nat) {s : State}
    (h : AtStep k 6 s) (hfsm : s.fsm = mdCycle isDiv) (hcnt : s.mdCnt.toNat + n = 15) :
    clocksToEnd (fuel + (n + 1)) s = clocksToEnd fuel { afterWaits isDiv (n + 1) s with fsm := .idle } := by
  induction n generalizing s with
  | zero =>
    have hlast : (s.mdCnt == 15) = true := beq_iff_eq.mpr (BitVec.eq_of_toNat_eq hcnt)
    rw [h.clocksToEnd_more hwait rfl, edgeOf_wait_cycle hfsm, if_pos hlast]
  | succ n ih =>
    have hmore : ¬ (s.mdCnt == 15) = true := by
      intro hlast
      rw [beq_iff_eq.mp hlast] at hcnt
      exact absurd hcnt (by simp)
    have hnext : (s.mdCnt + 1).toNat + n = 15 := by
      rw [BitVec.toNat_add]
      change (s.mdCnt.toNat + 1) % 16 + n = 15
      omega
    have hcount : (afterWaits isDiv 1 s).mdCnt = s.mdCnt + 1 := (countsIteration_md isDiv (mdRegs s)).2.1
    have hkept : { afterWaits isDiv 1 s with fsm := mdCycle isDiv } = afterWaits isDiv 1 s := by rw [← hfsm]; rfl
    rw [← Nat.add_assoc, h.clocksToEnd_more hwait rfl, edgeOf_wait_cycle hfsm, if_neg hmore, hkept,
      ih (s := afterWaits isDiv 1 s) ⟨h.run, h.bus, h.kind, h.upc⟩ hfsm (hcount ▸ hnext), afterWaits_succ]

/-! ## The rows (R237, R238) -/

/-- The last two clocks of a row, in IDLE: the wait that ends, and the flags of the unit's result. -/
theorem clocksToEnd_flags {isDiv : Signal} {s : State} (h : AtStep (mdKind isDiv) 6 s) (hfsm : s.fsm = .idle)
    (fuel : Nat) :
    clocksToEnd (fuel + 2) s =
      .next (endInstr 2 { s with z := mdZero s.mdOp s.hi s.lo, n := mdNegative s.mdOp s.hi s.lo }) := by
  have h7 : AtStep (mdKind isDiv) 7 (edgeOf 0x01000000 s) := by
    refine ⟨h.run, h.bus, h.kind, ?_⟩
    rw [eq_withUpcFsm h.upc hfsm]
    rfl
  rw [h.clocksToEnd_more (rowWord_mdKind_wait isDiv) rfl, h7.clocksToEnd_last (lastStep_mdKind isDiv).symm,
    rowWord_mdKind_flags, eq_withUpcFsm h.upc hfsm]
  rfl

/-- From the started sequencer to the end of the row: INIT, sixteen iterations, and the flags. -/
theorem clocksToEnd_started {isDiv : Signal} {hi lo : Word} {s : State} (h : AtStep (mdKind isDiv) 6 s)
    (hfsm : s.fsm = mdStart isDiv)
    (hresult : iterateMd (mdIteration isDiv) 16 (mdInit s.ac s.mdr isDiv) = ⟨hi, lo, s.mdr, 0, isDiv⟩) (fuel : Nat) :
    clocksToEnd (fuel + 19) s = .next (endInstr 19 (setMdResult isDiv hi lo s.mdr s)) := by
  have hwait := rowWord_mdKind_wait isDiv
  have hwaited : { afterWaits isDiv 16 (afterInit isDiv s) with fsm := .idle } =
      withMd ⟨hi, lo, s.mdr, 0, isDiv⟩ { s with fsm := .idle, cycleCount := s.cycleCount + 17 } := by
    rw [← hresult]
    rfl
  calc clocksToEnd (fuel + 19) s
      = clocksToEnd (fuel + 18) (afterInit isDiv s) := by rw [h.clocksToEnd_more hwait rfl, edgeOf_wait_start hfsm]
    _ = clocksToEnd (fuel + 2) { afterWaits isDiv 16 (afterInit isDiv s) with fsm := .idle } :=
        clocksToEnd_wait_cycle hwait 15 (fuel + 2) ⟨h.run, h.bus, h.kind, h.upc⟩ rfl rfl
    _ = .next (endInstr 19 (setMdResult isDiv hi lo s.mdr s)) := by
        rw [hwaited]
        exact clocksToEnd_flags
          (s := withMd ⟨hi, lo, s.mdr, 0, isDiv⟩ { s with fsm := .idle, cycleCount := s.cycleCount + 17 })
          ⟨h.run, h.bus, h.kind, h.upc⟩ rfl fuel

/-- The word that starts the sequencer. -/
def startWord (isDiv : Signal) : ControlWord := if isDiv then 0x00800000 else 0x00400000

/-- The start of the sequencer: a divide by zero goes to ERROR (R256). -/
theorem edgeOf_startWord {isDiv : Signal} {s : State} (hfsm : s.fsm = .idle) :
    edgeOf (startWord isDiv) s =
      { s with
        fsm := if isDiv && s.mdr == 0 then .error else mdStart isDiv
        upc := s.upc + 1, cycleCount := s.cycleCount + 1 } := by
  rw [eq_withFsm hfsm]
  cases isDiv <;> rfl

/-- The state after the three clocks of a row that start the sequencer. -/
def afterStart (f : Fsm) (s : State) : State :=
  { afterOperand s with upc := 6, fsm := f, cycleCount := s.cycleCount + 3 }

/-- The first three clocks of the row of MULT or DIV: the memory operand, and the start. -/
theorem clocksToEnd_start {isDiv : Signal} {s : State} (h : AtStep (mdKind isDiv) 3 s) (hfsm : s.fsm = .idle)
    {f : Fsm} (hf : (if isDiv && (afterOperand s).mdr == 0 then .error else mdStart isDiv) = f) (fuel : Nat) :
    clocksToEnd (fuel + 3) s = clocksToEnd fuel (afterStart f s) ∧ AtStep (mdKind isDiv) 6 (afterStart f s) := by
  have hmar : rowWord (mdKind isDiv) 3 = 0x00004000 := by cases isDiv <;> rfl
  have hread : rowWord (mdKind isDiv) 4 = 0x00048000 := by cases isDiv <;> rfl
  have hstart : rowWord (mdKind isDiv) 5 = startWord isDiv := by cases isDiv <;> rfl
  have hmid : (signalGenerator (startWord isDiv)).endInstr = false := by cases isDiv <;> rfl
  obtain ⟨hmore, h5⟩ := clocksToEnd_operand hmar hread h hfsm (fuel + 1)
  have hedge := edgeOf_startWord (isDiv := isDiv) (s := afterOperand s) hfsm
  rw [hf] at hedge
  exact ⟨by rw [hmore, h5.clocksToEnd_more hstart hmid, hedge]; rfl, ⟨h.run, h.bus, h.kind, rfl⟩⟩

theorem clocksToEnd_row_mult {s : State} (h : AtStep .mult 3 s) (hfsm : s.fsm = .idle) (fuel : Nat) :
    clocksToEnd (fuel + 22) s = .next (afterInstr .mult (operandField s.ir) s) := by
  obtain ⟨hmore, h6⟩ := clocksToEnd_start (isDiv := false) h hfsm rfl (fuel + 19)
  rw [hmore, clocksToEnd_started h6 rfl (multIterations_eq_product _ _)]
  rfl

theorem clocksToEnd_row_div_nonzero {s : State} (h : AtStep .div 3 s) (hfsm : s.fsm = .idle)
    (hm : memRead s.map s.mem (zext16 (operandField s.ir)) ≠ 0) (fuel : Nat) :
    clocksToEnd (fuel + 22) s = .next (afterInstr .div (operandField s.ir) s) := by
  obtain ⟨hmore, h6⟩ := clocksToEnd_start (isDiv := true) h hfsm (if_neg (mt beq_iff_eq.mp hm)) (fuel + 19)
  rw [hmore, clocksToEnd_started h6 rfl (divIterations_eq_quotient _ hm), afterInstr_div_nonzero rfl hm]
  rfl

/-- DIV by zero: the sequencer's ERROR state writes ERR in both of the clocks that are left of the row, to the same effect
as once (60_exceptions.md R366). -/
theorem clocksToEnd_row_div_zero {s : State} (h : AtStep .div 3 s) (hfsm : s.fsm = .idle)
    (hm : memRead s.map s.mem (zext16 (operandField s.ir)) = 0) (fuel : Nat) :
    clocksToEnd (fuel + 5) s = .next (afterInstr .div (operandField s.ir) s) := by
  obtain ⟨hmore, h6⟩ := clocksToEnd_start (isDiv := true) h hfsm (if_pos (beq_iff_eq.mpr hm)) (fuel + 2)
  have h7 : AtStep .div 7 (edgeOf 0x01000000 (afterStart .error s)) := ⟨h.run, h.bus, h.kind, rfl⟩
  have hrecord : s.err ||| 0x0001#16 ||| 0x0001#16 = s.err ||| 0x0001#16 := by rw [BitVec.or_assoc, BitVec.or_self]
  have hedges : edgeOf (rowWord .div 7) (edgeOf 0x01000000 (afterStart .error s)) =
      endInstr 5
        { setOperand (zext16 (operandField s.ir)) (memRead s.map s.mem (zext16 (operandField s.ir))) s with
          err := s.err ||| 0x0001#16 ||| 0x0001#16, fsm := .idle } := rfl
  rw [hmore, h6.clocksToEnd_more (rowWord_mdKind_wait true) rfl, h7.clocksToEnd_last rfl, hedges, hrecord,
    afterInstr_div_zero hm, hm]
  rfl

/-! ## The two levels (R301) -/

/-- Every kind's row, from step 3 with the sequencer idle, ends in the state of the instruction's rule. -/
theorem clocksToEnd_row {k : Kind} {s : State} (h : AtStep k 3 s) (hfsm : s.fsm = .idle) (fuel : Nat) :
    clocksToEnd (fuel + 22) s = .next (afterInstr k (operandField s.ir) s) := by
  cases k with
  | nop | jump | jz | loadi | shl | shr | halt => exact clocksToEnd_row_one rfl h hfsm (fuel + 21)
  | store => exact clocksToEnd_row_store h hfsm (fuel + 20)
  | load | add | sub | and | or | xor => exact clocksToEnd_row_three rfl h hfsm (fuel + 19)
  | mult => exact clocksToEnd_row_mult h hfsm fuel
  | div =>
    by_cases hm : memRead s.map s.mem (zext16 (operandField s.ir)) = 0
    · exact clocksToEnd_row_div_zero h hfsm hm (fuel + 17)
    · exact clocksToEnd_row_div_nonzero h hfsm hm fuel

/-! ## The statements -/

/-- Settles O45: the three fetch words. -/
theorem threeClocksFetch : Obligations.ThreeClocksFetch := fun _ => clocks_fetch

/-- Settles O46: FETCH, then the row of the kind that IR selects now. -/
theorem clocksAndInstructionRulesAgree : Obligations.ClocksAndInstructionRulesAgree := by
  intro s hready
  rw [step_eq_afterCycle hready, cycleBound, clocksToEnd_fetch hready 61]
  obtain ⟨hrun, ⟨-, hfsm, hbus⟩, -⟩ := hready
  exact clocksToEnd_row (s := fetched _ s) ⟨hrun, hbus, rfl, rfl⟩ hfsm 39

end Sys2Proof.Laws
end

section
/-! PROOFS. Every instruction cycle ends (44_cpu_cycle.md R296, log 5): a bound on the clocks left that falls at each clock
without END_INSTR, whatever the microcounter and the sequencer hold; and the statement made from it. -/

namespace Sys2Proof.Laws

open Sys2Proof.Machine

/-! ## The lines that decide where a clock goes on -/

theorem rowWord_irLd {k : Kind} {step : MicroStep} (h : (signalGenerator (rowWord k step)).irLd = true) : step = 2 := by
  revert step
  cases k <;> decide

theorem rowWord_mdWait {k : Kind} {step : MicroStep} (h : (signalGenerator (rowWord k step)).mdWait = true) :
    step = 6 := by
  revert step
  cases k <;> decide

theorem rowWord_halt_ends {k : Kind} {step : MicroStep} (h : (signalGenerator (rowWord k step)).halt = true) :
    step = lastStep k := by
  obtain ⟨rfl, rfl⟩ := (rowWord_halt k step).mp h
  rfl

/-- A word that starts the sequencer. -/
def starts (cw : ControlWord) : Bool := (signalGenerator cw).mdStartMul || (signalGenerator cw).mdStartDiv

/-! ## The clocks left -/

/-- A bound on the clocks that the microcounter has left, with room at step 5 for the waits that a start brings. -/
def stepsLeft (k : Kind) (step : MicroStep) : Nat :=
  if (lastStep k).toNat < step.toNat then 41 - step.toNat else if step.toNat ≤ 5 then 25 - step.toNat else 8 - step.toNat

/-- The clocks for which the sequencer stays busy. -/
def waitsLeft (s : State) : Nat :=
  match s.fsm with
  | .idle | .error => 0
  | .multInit | .divInit => 17
  | .multCycle | .divCycle => 16 - s.mdCnt.toNat

def clocksLeft (s : State) : Nat := stepsLeft (kindOf (opcodeField s.ir)) s.upc + waitsLeft s

theorem stepsLeft_le (k : Kind) (step : MicroStep) : stepsLeft k step ≤ 37 := by
  revert step
  cases k <;> decide

theorem waitsLeft_le (s : State) : waitsLeft s ≤ 17 := by
  unfold waitsLeft
  split <;> omega

/-- A step on, the bound falls, and by the seventeen waits too where the word starts the sequencer. -/
theorem stepsLeft_succ (k : Kind) (step : MicroStep) (h : step ≠ lastStep k) :
    stepsLeft k (step + 1) + (if starts (rowWord k step) then 17 else 0) < stepsLeft k step := by
  revert step
  cases k <;> decide

/-- Every row is alike up to step 3, so the load of IR at step 2 does not matter. -/
theorem stepsLeft_three (k : Kind) : stepsLeft k 3 = 22 := by
  cases k <;> rfl

/-- A busy sequencer has fewer waits left after each clock: INIT counts from 0, and CYCLE counts one on or is done. -/
theorem waitsLeft_busy {s : State} (hbusy : (fsmOutputs s.fsm).busy = true) (cw : ControlWord) :
    waitsLeft (edgeOf cw s) < waitsLeft s := by
  have hcnt := s.mdCnt.isLt
  have hcount : s.mdCnt ≠ 15 → (s.mdCnt + 1).toNat = s.mdCnt.toNat + 1 := by
    intro hmore
    have hne : s.mdCnt.toNat ≠ 15 := fun h => hmore (BitVec.eq_of_toNat_eq h)
    rw [BitVec.toNat_add]
    exact Nat.mod_eq_of_lt (by change _ + 1 < 16; omega)
  simp only [waitsLeft, edgeOf]
  cases hfsm : s.fsm with
  | idle | error =>
    rw [hfsm] at hbusy
    cases hbusy
  | multInit | divInit =>
    cases (signalGenerator cw).mdReset with
    | true => exact Nat.succ_pos 16
    | false => exact Nat.lt_succ_self 16
  | multCycle | divCycle =>
    cases (signalGenerator cw).mdReset with
    | true => exact Nat.sub_pos_of_lt hcnt
    | false =>
      cases hdone : s.mdCnt == 15 with
      | true => exact Nat.sub_pos_of_lt hcnt
      | false =>
        have hnext := hcount (ne_of_beq_false hdone)
        change 16 - (s.mdCnt + 1).toNat < 16 - s.mdCnt.toNat
        omega

/-- An idle sequencer has waits only if it is started. -/
theorem waitsLeft_not_busy {s : State} (hidle : (fsmOutputs s.fsm).busy = false) (cw : ControlWord) :
    waitsLeft (edgeOf cw s) ≤ if starts cw then 17 else 0 := by
  by_cases hstart : starts cw = true
  · rw [if_pos hstart]
    exact waitsLeft_le _
  · obtain ⟨hmul, hdiv⟩ := Bool.or_eq_false_iff.mp (Bool.eq_false_of_not_eq_true hstart)
    simp only [waitsLeft, edgeOf, hmul, hdiv]
    cases hfsm : s.fsm with
    | idle | error => cases (signalGenerator cw).mdReset <;> exact Nat.zero_le _
    | _ =>
      rw [hfsm] at hidle
      cases hidle

/-! ## Each clock without END_INSTR brings the end nearer -/

/-- The microcounter stays only at a WAIT while the sequencer is busy. -/
theorem upc_edgeOf {cw : ControlWord} (hend : (signalGenerator cw).endInstr = false) (s : State) :
    (edgeOf cw s).upc = if (signalGenerator cw).mdWait && (fsmOutputs s.fsm).busy then s.upc else s.upc + 1 := by
  simp only [edgeOf, hend]
  cases (signalGenerator cw).mdWait && (fsmOutputs s.fsm).busy <;> rfl

/-- The load of IR at step 2 changes the row where all rows have as many steps left. -/
theorem stepsLeft_edgeOf_ir (s : State) :
    stepsLeft (kindOf (opcodeField (edgeOf (controlWord s) s).ir)) (s.upc + 1) =
      stepsLeft (kindOf (opcodeField s.ir)) (s.upc + 1) := by
  have hir : (edgeOf (controlWord s) s).ir = if (signalGenerator (controlWord s)).irLd then s.mdr else s.ir := rfl
  rw [hir]
  split
  · next hload =>
    rw [controlWord_eq_rowWord] at hload
    rw [rowWord_irLd hload]
    exact (stepsLeft_three _).trans (stepsLeft_three _).symm
  · rfl

/-- A WAIT keeps IR. -/
theorem ir_edgeOf_wait {s : State} (hwait : (signalGenerator (controlWord s)).mdWait = true) :
    (edgeOf (controlWord s) s).ir = s.ir := by
  refine if_neg fun hload => ?_
  rw [controlWord_eq_rowWord] at hwait hload
  have hstep := (rowWord_mdWait hwait).symm.trans (rowWord_irLd hload)
  exact absurd hstep (by decide)

/-- At a WAIT of a busy sequencer the waits fall; at any other word the steps fall, by more than a start adds. -/
theorem clocksLeft_edgeOf_lt {s : State} (hend : (signalGenerator (controlWord s)).endInstr = false) :
    clocksLeft (edgeOf (controlWord s) s) < clocksLeft s := by
  have hupc := upc_edgeOf hend s
  have hnotlast : s.upc ≠ lastStep (kindOf (opcodeField s.ir)) := by
    rw [Ne, ← rowWord_endInstr, ← controlWord_eq_rowWord, hend]
    exact Bool.false_ne_true
  have hsteps := stepsLeft_succ _ _ hnotlast
  rw [← controlWord_eq_rowWord] at hsteps
  unfold clocksLeft
  cases hbusy : (fsmOutputs s.fsm).busy with
  | true =>
    have hwaits := waitsLeft_busy hbusy (controlWord s)
    rw [hbusy, Bool.and_true] at hupc
    rw [hupc]
    split
    · next hwait =>
      rw [ir_edgeOf_wait hwait]
      omega
    · rw [stepsLeft_edgeOf_ir]
      omega
  | false =>
    have hwaits := waitsLeft_not_busy hbusy (controlWord s)
    rw [hbusy, Bool.and_false, if_neg Bool.false_ne_true] at hupc
    rw [hupc, stepsLeft_edgeOf_ir]
    omega

/-- Without END_INSTR a clock does not halt, since HALT's word has both lines (R247). -/
theorem run_edgeOf {s : State} (hend : (signalGenerator (controlWord s)).endInstr = false) :
    (edgeOf (controlWord s) s).run = s.run := by
  refine if_neg fun hhalt => ?_
  rw [controlWord_eq_rowWord] at hhalt hend
  rw [(rowWord_endInstr _ _).mpr (rowWord_halt_ends hhalt)] at hend
  cases hend

/-- With at least the clocks left as fuel, END_INSTR comes: now, or after a clock that brings it nearer. -/
theorem clocksToEnd_ends {fuel : Nat} {s : State} (hrun : s.run = true) (hbus : s.bus = .free)
    (hfuel : clocksLeft s < fuel) :
    ∃ t, clocksToEnd fuel s = .next t ∧ t.upc = 0 ∧ t.instrCount = s.instrCount + 1 := by
  induction fuel generalizing s with
  | zero => exact absurd hfuel (Nat.not_lt_zero _)
  | succ fuel ih =>
    rw [clocksToEnd_succ_next (clock_eq_edgeOf hrun hbus)]
    rw [endsInstr, controlLines]
    cases hend : (signalGenerator (controlWord s)).endInstr with
    | true => exact ⟨_, rfl, by simp [edgeOf, hend], by simp [edgeOf, hend]⟩
    | false =>
      have hless := clocksLeft_edgeOf_lt hend
      have hcount : (edgeOf (controlWord s) s).instrCount = s.instrCount := by simp [edgeOf, hend]
      rw [← hcount]
      exact ih ((run_edgeOf hend).trans hrun) hbus (by omega)

/-- Settles O48: the bound at its largest is below the fuel. -/
theorem everyInstructionCycleEnds : Obligations.EveryInstructionCycleEnds := by
  intro s hrun hbus
  refine clocksToEnd_ends hrun hbus ?_
  have hsteps := stepsLeft_le (kindOf (opcodeField s.ir)) s.upc
  have hwaits := waitsLeft_le s
  rw [clocksLeft, cycleBound]
  omega

end Sys2Proof.Laws
end
